-- ==== Sys2Proof/Word.lean ====
section
/-! DEFINITION. The word types of the png2pos raster engine. -/

namespace Sys2Proof

/-- A host register, a bus offset or bus data (20_memory.md R74). -/
abbrev Word := BitVec 32

/-- A lightness value, a channel, a canvas byte or a byte of the output stream. -/
abbrev Byte := BitVec 8

end Sys2Proof
end

