-- ==== Sys2Proof/Config.lean ====
section
/-! DEFINITION. What one machine fixes (the open parameters of 92_eei_decisions.md) and the free
values the spec leaves open. The reference values of the parameters are in Machine/Tables.lean. -/

namespace Sys2Proof

/-- `PRINTER_MAX_WIDTH`, in dots (00_scope.md R8). Not an open parameter. -/
def printerMaxWidth : Nat := 512

/-- The parameters the spec leaves open (92_eei_decisions.md, summary table). State carries one such
record and no step writes it (log 4). -/
structure Config where
  /-- `GS8L_MAX_Y`, rows in one store frame (00_scope.md R9). -/
  gs8lMaxY : Nat
  /-- `LTABLE`, the lightness table (00_scope.md R10). -/
  ltable : Vector Byte 256
  /-- `LF_CAP` and `CANVAS_CAP`, in bytes (00_scope.md R12). -/
  lfCap : Nat
  canvasCap : Nat
  /-- The fixed bytes of the frames (00_scope.md R14). -/
  initBytes : Vector Byte 2
  marginPrefix : Vector Byte 2
  storePrefix : Vector Byte 3
  storeMid : Vector Byte 8
  flushBytes : Vector Byte 7
  cutBytes : Vector Byte 4
  /-- `REG_BASE` and `REG_SIZE`, the platform's placing of the register window (20_memory.md R78). -/
  regBase : Nat
  regSize : Nat
deriving DecidableEq, Repr

/-- The constraints the spec puts on the parameters (00_scope.md R9, R10, R12; 20_memory.md R78). -/
structure Config.Wf (c : Config) : Prop where
  gs8l_pos : 1 ≤ c.gs8lMaxY
  gs8l_fits : 10 + c.gs8lMaxY * (printerMaxWidth / 8) ≤ 65535
  ltable_mono : ∀ i : Fin 255, (c.ltable[i.val]).toNat ≤ (c.ltable[i.val + 1]).toNat
  ltable_zero : c.ltable[0] = 0
  ltable_last : c.ltable[255] = 255
  lfCap_pos : 1 ≤ c.lfCap
  canvasCap_pos : 1 ≤ c.canvasCap
  regSize_min : 0x20 ≤ c.regSize

/-- A reader of the stream can tell the two frames of length 4 apart (30_encoding.md R108). -/
abbrev Config.FramesDiffer (c : Config) : Prop :=
  c.marginPrefix.toList ≠ c.cutBytes.toList.take 2

/-- `LTABLE[y]`. -/
def Config.lightness (c : Config) (y : Byte) : Byte := c.ltable[y.toNat]'y.isLt

/-- Where in the host's address space the register at `off` stands (20_memory.md R78). -/
def Config.hostAddress (c : Config) (off : Word) : Nat := c.regBase + off.toNat

/-- The sink's answer to one offered byte (20_memory.md R75). -/
inductive SinkAnswer where
  | accept
  | stall
  | fail
deriving DecidableEq, Repr, Inhabited

/-- The two agents whose steps interleave (40_host_commands.md R130). -/
inductive Agent where
  | host
  | engine
deriving DecidableEq, Repr, Inhabited

/-- FREE VALUE: the contents of a buffer cell that nothing has written since the reset that drew
`seed` (93_implementation_defined.md U1; log 3). -/
opaque Config.freeCell : (w : Nat) → (seed index : Nat) → BitVec w

/-- FREE VALUE: the sink's answer at draw `n` (93_implementation_defined.md U7; log 2). -/
opaque Config.freeAnswer : Nat → SinkAnswer

/-- FREE VALUE: who moves at draw `n` when both agents could (93_implementation_defined.md U8; log 1). -/
opaque Config.freeAgent : Nat → Agent

end Sys2Proof
end

