-- ==== Sys2Proof/Machine/Tables.lean ====
section
/-! DEFINITION. The ROM GAMMA (41_color_reducer.md R163), the reference instance of LTABLE (R166) and
the reference values of the other parameters (00_scope.md R9, R12; 30_encoding.md R110). -/

namespace Sys2Proof

/-- GAMMA, row by row (41_color_reducer.md R163). -/
def gammaList : List Byte :=
  [0, 0, 0, 0, 0, 0, 0, 0, 0, 0, 0, 0, 0, 0, 0, 1] ++
  [1, 1, 1, 1, 1, 1, 1, 1, 1, 2, 2, 2, 2, 2, 2, 2] ++
  [3, 3, 3, 3, 3, 4, 4, 4, 4, 5, 5, 5, 5, 6, 6, 6] ++
  [6, 7, 7, 7, 8, 8, 8, 9, 9, 9, 10, 10, 11, 11, 11, 12] ++
  [12, 13, 13, 13, 14, 14, 15, 15, 16, 16, 17, 17, 18, 18, 19, 19] ++
  [20, 20, 21, 22, 22, 23, 23, 24, 25, 25, 26, 26, 27, 28, 28, 29] ++
  [30, 30, 31, 32, 33, 33, 34, 35, 35, 36, 37, 38, 39, 39, 40, 41] ++
  [42, 43, 43, 44, 45, 46, 47, 48, 49, 49, 50, 51, 52, 53, 54, 55] ++
  [56, 57, 58, 59, 60, 61, 62, 63, 64, 65, 66, 67, 68, 69, 70, 71] ++
  [73, 74, 75, 76, 77, 78, 79, 81, 82, 83, 84, 85, 87, 88, 89, 90] ++
  [91, 93, 94, 95, 97, 98, 99, 100, 102, 103, 105, 106, 107, 109, 110, 111] ++
  [113, 114, 116, 117, 119, 120, 121, 123, 124, 126, 127, 129, 130, 132, 133, 135] ++
  [137, 138, 140, 141, 143, 145, 146, 148, 149, 151, 153, 154, 156, 158, 159, 161] ++
  [163, 165, 166, 168, 170, 172, 173, 175, 177, 179, 181, 182, 184, 186, 188, 190] ++
  [192, 194, 196, 197, 199, 201, 203, 205, 207, 209, 211, 213, 215, 217, 219, 221] ++
  [223, 225, 227, 229, 231, 234, 236, 238, 240, 242, 244, 246, 248, 251, 253, 255]

/-- The fixed ROM GAMMA (00_scope.md R11, 10_state.md R50). -/
def gammaTable : Vector Byte 256 := ⟨⟨gammaList⟩, by decide +kernel⟩

/-- LTABLE_CIE, row by row (41_color_reducer.md R166, from general knowledge, not in source; log 4). -/
def ltableCieList : List Byte :=
  [0, 9, 18, 26, 33, 39, 44, 48, 52, 56, 60, 63, 66, 69, 72, 74] ++
  [77, 79, 81, 84, 86, 88, 90, 92, 94, 96, 97, 99, 101, 103, 104, 106] ++
  [107, 109, 110, 112, 113, 115, 116, 117, 119, 120, 121, 123, 124, 125, 126, 128] ++
  [129, 130, 131, 132, 133, 134, 136, 137, 138, 139, 140, 141, 142, 143, 144, 145] ++
  [146, 147, 148, 149, 150, 151, 151, 152, 153, 154, 155, 156, 157, 158, 159, 159] ++
  [160, 161, 162, 163, 163, 164, 165, 166, 167, 167, 168, 169, 170, 171, 171, 172] ++
  [173, 174, 174, 175, 176, 176, 177, 178, 179, 179, 180, 181, 181, 182, 183, 183] ++
  [184, 185, 185, 186, 187, 187, 188, 189, 189, 190, 191, 191, 192, 192, 193, 194] ++
  [194, 195, 196, 196, 197, 197, 198, 198, 199, 200, 200, 201, 201, 202, 203, 203] ++
  [204, 204, 205, 205, 206, 206, 207, 208, 208, 209, 209, 210, 210, 211, 211, 212] ++
  [212, 213, 213, 214, 215, 215, 216, 216, 217, 217, 218, 218, 219, 219, 220, 220] ++
  [221, 221, 222, 222, 223, 223, 224, 224, 225, 225, 225, 226, 226, 227, 227, 228] ++
  [228, 229, 229, 230, 230, 231, 231, 232, 232, 232, 233, 233, 234, 234, 235, 235] ++
  [236, 236, 236, 237, 237, 238, 238, 239, 239, 240, 240, 240, 241, 241, 242, 242] ++
  [242, 243, 243, 244, 244, 245, 245, 245, 246, 246, 247, 247, 247, 248, 248, 249] ++
  [249, 249, 250, 250, 251, 251, 251, 252, 252, 253, 253, 253, 254, 254, 255, 255]

/-- The reference instance of LTABLE. -/
def ltableCie : Vector Byte 256 := ⟨⟨ltableCieList⟩, by decide +kernel⟩

/-- `GAMMA[c]`. -/
def gamma (c : Byte) : Byte := gammaTable[c.toNat]'c.isLt

/-- The reference machine: the reference value of every open parameter (92_eei_decisions.md; log 4),
and a register window that holds every 32-bit offset (20_memory.md R78 names no value; log 5). -/
def Config.reference : Config where
  gs8lMaxY := 1023
  ltable := ltableCie
  lfCap := 512 * 65535
  canvasCap := 64 * 65535
  initBytes := #v[0x1B, 0x40]
  marginPrefix := #v[0x1D, 0x4C]
  storePrefix := #v[0x1D, 0x38, 0x4C]
  storeMid := #v[0x00, 0x00, 0x30, 0x70, 0x30, 0x01, 0x01, 0x31]
  flushBytes := #v[0x1D, 0x28, 0x4C, 0x02, 0x00, 0x30, 0x32]
  cutBytes := #v[0x1D, 0x56, 0x41, 0x00]
  regBase := 0
  regSize := 2 ^ 32

end Sys2Proof
end

