-- ==== Sys2Proof/Syntax.lean ====
section
/-! DEFINITION. The instructions: one constructor per row of spec/opcode_table.json. The engine has no
instruction set (30_encoding.md): a row is a bus access, a command, a pixel, an internal operation
or an output frame. Also the two forms in which one is presented to be run (`Fetch`). -/

namespace Sys2Proof

/-- One row of the opcode table each. `ignored` is CMD bits 31:4, which select nothing
(30_encoding.md R96). -/
inductive Instr where
  -- BUS writes
  /-- `WR CTRL` (40_host_commands.md R132). -/
  | wrCtrl (data : Word)
  /-- `WR THRESH` (R132). -/
  | wrThresh (data : Word)
  /-- `WR WIDTH` (R132). -/
  | wrWidth (data : Word)
  /-- `WR HEIGHT` (R132). -/
  | wrHeight (data : Word)
  /-- `WR STATUS`: a read-only register (10_state.md R32). -/
  | wrStatus (data : Word)
  /-- `WR EFF_THRESH`: a read-only register (10_state.md R32). -/
  | wrEffThresh (data : Word)
  /-- `WR` at an unmapped offset (10_state.md R32). -/
  | wrUnmapped (off data : Word)
  -- BUS reads
  /-- `RD CTRL` (40_host_commands.md R135). -/
  | rdCtrl
  /-- `RD THRESH` (R135). -/
  | rdThresh
  /-- `RD WIDTH` (R135). -/
  | rdWidth
  /-- `RD HEIGHT` (R135). -/
  | rdHeight
  /-- `RD CMD` (R135). -/
  | rdCmd
  /-- `RD STATUS` (R135). -/
  | rdStatus
  /-- `RD PIXIN` (R135). -/
  | rdPixin
  /-- `RD EFF_THRESH` (R135). -/
  | rdEffThresh
  /-- `RD` at an unmapped offset (R135). -/
  | rdUnmapped (off : Word)
  -- CMD writes
  /-- `NOP`, CODE 0x0 (R133). -/
  | nop (ignored : BitVec 28)
  /-- `JOB_START`, CODE 0x1 (R134). -/
  | jobStart (ignored : BitVec 28)
  /-- `IMAGE`, CODE 0x2 (R136). -/
  | image (ignored : BitVec 28)
  /-- `JOB_END`, CODE 0x3 (R137). -/
  | jobEnd (ignored : BitVec 28)
  /-- `SOFT_RESET`, CODE 0xF (R138). -/
  | softReset (ignored : BitVec 28)
  /-- `RESERVED_4`: CMD code 0x4, illegal (40_host_commands.md R139). -/
  | reserved4 (ignored : BitVec 28)
  /-- `RESERVED_5`: CMD code 0x5, illegal (40_host_commands.md R139). -/
  | reserved5 (ignored : BitVec 28)
  /-- `RESERVED_6`: CMD code 0x6, illegal (40_host_commands.md R139). -/
  | reserved6 (ignored : BitVec 28)
  /-- `RESERVED_7`: CMD code 0x7, illegal (40_host_commands.md R139). -/
  | reserved7 (ignored : BitVec 28)
  /-- `RESERVED_8`: CMD code 0x8, illegal (40_host_commands.md R139). -/
  | reserved8 (ignored : BitVec 28)
  /-- `RESERVED_9`: CMD code 0x9, illegal (40_host_commands.md R139). -/
  | reserved9 (ignored : BitVec 28)
  /-- `RESERVED_A`: CMD code 0xA, illegal (40_host_commands.md R139). -/
  | reservedA (ignored : BitVec 28)
  /-- `RESERVED_B`: CMD code 0xB, illegal (40_host_commands.md R139). -/
  | reservedB (ignored : BitVec 28)
  /-- `RESERVED_C`: CMD code 0xC, illegal (40_host_commands.md R139). -/
  | reservedC (ignored : BitVec 28)
  /-- `RESERVED_D`: CMD code 0xD, illegal (40_host_commands.md R139). -/
  | reservedD (ignored : BitVec 28)
  /-- `RESERVED_E`: CMD code 0xE, illegal (40_host_commands.md R139). -/
  | reservedE (ignored : BitVec 28)
  -- PIXIN writes
  /-- `PIX`: a pixel write (40_host_commands.md R140). -/
  | pix (r g b a : Byte)
  -- Internal operations (30_encoding.md R112)
  /-- `REDUCE`, phase 0x2, on the PIX word's fields (41_color_reducer.md R170). -/
  | reduce (r g b a : Byte)
  /-- `CDF`, phase 0x3 (42_tone_mapper.md R181). -/
  | cdf
  /-- `REMAP`, phase 0x4 (42_tone_mapper.md R183, R185). -/
  | remap
  /-- `DITHER`, phase 0x5 (43_ditherer.md R201). -/
  | dither
  /-- `BINARIZE`, phase 0x6 (44_binarizer.md R221). -/
  | binarize
  /-- `PACK`, phase 0x7 (45_bit_packer.md R232). -/
  | pack
  /-- `EMIT`, phase 0x8 (46_frame_encoder.md R254). -/
  | emit
  /-- `INIT` emission, phase 0x9 (46_frame_encoder.md R251). -/
  | initEmit
  /-- `CUT` emission, phase 0xA (46_frame_encoder.md R262). -/
  | cutEmit
  -- Output frames
  /-- The INIT frame (30_encoding.md R101). -/
  | frameInit
  /-- The MARGIN frame with its offset field (R102). -/
  | frameMargin (offset : BitVec 16)
  /-- The STORE frame with its `canvas_w` and `k` fields and its raster payload (R103, R104). -/
  | frameStore (canvasW k : BitVec 16) (payload : List Byte)
  /-- The FLUSH frame (R105). -/
  | frameFlush
  /-- The CUT frame (R106). -/
  | frameCut
deriving DecidableEq, Repr

/-- The direction of a bus access (30_encoding.md R91). -/
inductive Dir where
  | write
  | read
deriving DecidableEq, Repr

/-- The width of a bus access; only `word` has a meaning (20_memory.md R77). -/
inductive AccessSize where
  | byte
  | half
  | word
deriving DecidableEq, Repr

/-- A BUS access: direction, offset and data (30_encoding.md R91), with the access width of
20_memory.md R77 (log 6). The data of a read is what the engine returns and is not looked at here. -/
structure BusAccess where
  dir : Dir
  size : AccessSize
  off : Word
  data : Word
deriving DecidableEq, Repr

/-- A word-wide write and a word-wide read, as 30_encoding.md R113 writes them (`W off data`, `R off`). -/
def BusAccess.wr (off data : Word) : BusAccess := ⟨.write, .word, off, data⟩
def BusAccess.rd (off : Word) : BusAccess := ⟨.read, .word, off, 0⟩

/-- What a step can be given to run: a bus access, the code of the phase the engine is in
(30_encoding.md R112) with the PIX word REDUCE takes, or the bytes of one output frame (log 6, 8). -/
inductive Fetch where
  | bus (access : BusAccess)
  | phase (code : BitVec 4) (pixel : Word)
  | frame (bytes : List Byte)
deriving DecidableEq, Repr

end Sys2Proof
end

