-- ==== Sys2Proof/Machine/State.lean ====
section
/-! DEFINITION. The state of the engine and of the world it is driven by, as plain data
(10_state.md R30 to R54), the reasons a step can stop, and the state after reset (R54). -/

namespace Sys2Proof.Machine

/-- The sequencer phase, the engine's program counter (10_state.md R38, R52). -/
inductive Phase where
  | idle
  | ready
  | load
  | cdf
  | remap
  | dither
  | binarize
  | pack
  | emit
  | init
  | cut
  | halted
deriving DecidableEq, Repr

/-- What ERRCODE records (60_exceptions.md R291); 5 to 7 are never raised. -/
inductive ErrKind where
  | none
  | imageTooWide
  | allocationFailure
  | sinkWriteFailure
  | commandError
deriving DecidableEq, Repr

/-- The alignments of CTRL.ALIGN (10_state.md R34). -/
inductive Align where
  | unset
  | left
  | center
  | right
deriving DecidableEq, Repr

/-- The job configuration latch (10_state.md R42). -/
structure JobCfg where
  cut : Bool
  photo : Bool
  rotate : Bool
  align : Align
  thr : Byte
deriving DecidableEq, Repr

/-- Whether HIST holds counts or the cumulative distribution (10_state.md R48, R53). -/
inductive HistMode where
  | count
  | cdf
deriving DecidableEq, Repr

/-- The frame kinds of the output stream (30_encoding.md R100). -/
inductive FrameKind where
  | init
  | margin
  | store
  | flush
  | cut
deriving DecidableEq, Repr

/-- The encoder's place (10_state.md R51; log 10): at the start of the phase, before a frame of the
chunk in progress, or inside a frame with the bytes the sink has not accepted yet. -/
inductive EncPos where
  | start
  | before (kind : FrameKind)
  | inside (kind : FrameKind) (rest : List Byte)
deriving DecidableEq, Repr

/-- An internal buffer of `w`-bit cells (20_memory.md R70): the cells written since the last reset, by
index, rising; any other cell holds the free value of draw `seed` (93_implementation_defined.md U1;
log 3). -/
structure Buf (w : Nat) where
  seed : Nat
  cells : List (Nat × BitVec w)
deriving DecidableEq, Repr

/-- A byte buffer: LF and CANVAS. Its cells are a list of `Host.Cell`. -/
abbrev Memory := Buf 8

/-- The canonical form of a buffer: indices strictly rising, so each at most once. An unlisted cell
reads as a free value that no byte is known to equal, so no listed cell repeats it. -/
abbrev Buf.wf {w : Nat} (b : Buf w) : Prop := b.cells.Pairwise fun x y => x.1 < y.1

/-- The canonical form, for the byte buffers. -/
abbrev Memory.wf (m : Memory) : Prop := Buf.wf m

/-- Whose turn a step is (40_host_commands.md R130; log 1), or the platform's power-on reset
(70_reset_and_hazards.md R320; log 16). -/
inductive Turn where
  | host
  | engine
  | powerOn
deriving DecidableEq, Repr

/-- The machine. -/
structure State where
  /-- The read/write registers of the host block (10_state.md R33, R35, R36). -/
  ctrl : Word
  thresh : Word
  width : Word
  height : Word
  /-- EFF_THRESH (R41). -/
  effThr : Byte
  /-- The job configuration latch (R42). -/
  cfg : JobCfg
  /-- The image geometry latch: `img_w`, `img_h`, `N`, `canvas_w`, `stride`, `offset` (R43). -/
  imgW : BitVec 16
  imgH : BitVec 16
  n : BitVec 26
  canvasW : BitVec 10
  stride : BitVec 7
  offset : BitVec 10
  /-- The sequencer (R38, R44, R45, R46). -/
  phase : Phase
  li : BitVec 26
  jobActive : Bool
  err : Bool
  errcode : ErrKind
  /-- The frame encoder position (R51). -/
  row0 : BitVec 16
  k : BitVec 11
  pos : EncPos
  /-- The per-image buffers (R47, R48, R49). -/
  lf : Memory
  hist : Buf 32
  histMode : HistMode
  canvas : Memory
  /-- A CMD or PIXIN write that has not yet taken effect (R39, 40_host_commands.md R131). -/
  held : Option Instr
  /-- The machine's parameters; no step writes them (log 4). -/
  conf : Config
  /-- The bytes the sink accepted, oldest first (20_memory.md R76). -/
  out : List Byte
  /-- MODEL: what the last completed read returned (40_host_commands.md R135; log 12). -/
  rdata : Word
  /-- MODEL: the accesses the host has still to make, oldest first (20_memory.md R81; log 7). -/
  host : List BusAccess
  /-- MODEL: whose turn the next steps are (log 1). -/
  turns : List Turn
  /-- MODEL: the sink's answers to the next offers (20_memory.md R75; log 2). -/
  sink : List SinkAnswer
  /-- MODEL: how many free values have been drawn. -/
  draws : Nat
deriving DecidableEq, Repr

/-- Why the machine stops. None is an error of the engine: those are recorded in STATUS and the machine
goes on (60_exceptions.md R290 to R292). Each is SAFE and is raised only in states that no run
reaches from reset (20_memory.md R80, 60_exceptions.md R299; log 14). -/
inductive Fault where
  /-- REDUCE, REMAP, DITHER, BINARIZE or PACK would use an LF index of LF_CAP or above. Safe. -/
  | lfIndex
  /-- PACK or EMIT would use a CANVAS index of CANVAS_CAP or above. Safe. -/
  | canvasIndex
  /-- REMAP with `N = 0`, or PACK of a pixel with `img_w = 0`, would divide by zero. Safe. -/
  | divideByZero
deriving DecidableEq, Repr

/-- What the model gives no meaning. -/
inductive Refusal where
  /-- Raised by `exec` for an instruction with no meaning yet. Safe. -/
  | notModelled (mnemonic : String)
  /-- Raised by `step` for a byte or halfword access (20_memory.md R77). Safe. -/
  | narrowAccess
  /-- Raised by `step` for an access at an offset that is no multiple of 4 (R77). Safe. -/
  | misalignedAccess
  /-- Raised by `step` for an offset outside the register window, which is no access to this engine
  (20_memory.md R78). Safe. -/
  | outsideWindow
  /-- Raised by `step` for a phase code that names no operation; no state has the engine move with one
  (30_encoding.md R112). Safe. -/
  | noOperation
  /-- Raised by `step` for bytes that are no output frame; no state fetches any. Safe. -/
  | notAFrame
deriving DecidableEq, Repr

/-- How a step or an instruction ends. -/
abbrev Result := Host.Outcome State Fault Refusal

/-- The machine right after reset (10_state.md R54), with the reference parameters (log 4), no byte
emitted, and nothing given from outside: no access to make, no turn and no answer decided (log 7). The
contents of LF, HIST and CANVAS are the free values of draws 0, 1 and 2 (log 3). -/
def State.reset : State where
  ctrl := 0
  thresh := 0x80
  width := 0
  height := 0
  effThr := 0
  cfg := { cut := false, photo := false, rotate := false, align := .unset, thr := 0x80 }
  imgW := 0
  imgH := 0
  n := 0
  canvasW := 0
  stride := 0
  offset := 0
  phase := .idle
  li := 0
  jobActive := false
  err := false
  errcode := .none
  row0 := 0
  k := 0
  pos := .start
  lf := ⟨0, []⟩
  hist := ⟨1, []⟩
  histMode := .count
  canvas := ⟨2, []⟩
  held := none
  conf := Config.reference
  out := []
  rdata := 0
  host := []
  turns := []
  sink := []
  draws := 3

end Sys2Proof.Machine
end

