-- ==== Sys2Proof/Machine/Flags.lean ====
section
/-! DEFINITION. STATUS and its fields, a view of the sequencer (10_state.md R38, R39;
40_host_commands.md R135). -/

namespace Sys2Proof.Machine

/-- The PHASE codes (10_state.md R38). -/
def Phase.code (p : Phase) : BitVec 4 :=
  match p with
  | .idle => 0x0
  | .ready => 0x1
  | .load => 0x2
  | .cdf => 0x3
  | .remap => 0x4
  | .dither => 0x5
  | .binarize => 0x6
  | .pack => 0x7
  | .emit => 0x8
  | .init => 0x9
  | .cut => 0xA
  | .halted => 0xF

/-- BUSY: the engine runs a phase that does not wait for the host (10_state.md R39). -/
def Phase.busy (p : Phase) : Bool :=
  match p with
  | .idle => false
  | .ready => false
  | .load => false
  | .cdf => true
  | .remap => true
  | .dither => true
  | .binarize => true
  | .pack => true
  | .emit => true
  | .init => true
  | .cut => true
  | .halted => false

/-- The ERRCODE values (60_exceptions.md R291). -/
def ErrKind.code (e : ErrKind) : BitVec 3 :=
  match e with
  | .none => 0
  | .imageTooWide => 1
  | .allocationFailure => 2
  | .sinkWriteFailure => 3
  | .commandError => 4

/-- `STATUS.BUSY`. -/
def State.busy (s : State) : Bool := s.phase.busy

/-- The STATUS word: `{21'b0, errcode, 1'b0, err, job_active, BUSY, phase}` (40_host_commands.md R135). -/
def statusWord (s : State) : Word :=
  0#21 ++ s.errcode.code ++ 0#1 ++ BitVec.ofBool s.err ++ BitVec.ofBool s.jobActive ++
    BitVec.ofBool s.busy ++ s.phase.code

end Sys2Proof.Machine
end

