-- ==== Sys2Proof/Machine/FrameLayout.lean ====
section
/-! DEFINITION. The byte layouts of the output frames (30_encoding.md R100 to R106). -/

namespace Sys2Proof

/-- `LE16(v)`: low byte first (20_memory.md R71). -/
def le16 (v : Nat) : List Byte := [BitVec.ofNat 8 v, BitVec.ofNat 8 (v / 256)]

/-- The value of two bytes, low byte first. -/
def ofLe16 (lo hi : Byte) : BitVec 16 := hi ++ lo

/-- The store header's parameter length `p = 10 + k*stride` (46_frame_encoder.md R255). -/
def paramLength (k stride : Nat) : Nat := 10 + k * stride

/-- INIT, 2 bytes (30_encoding.md R101). -/
def initFrame (c : Config) : List Byte := c.initBytes.toList

/-- MARGIN, 4 bytes (30_encoding.md R102, 46_frame_encoder.md R257). -/
def marginFrame (c : Config) (offset : Nat) : List Byte := c.marginPrefix.toList ++ le16 offset

/-- The 17 bytes of a STORE header (30_encoding.md R103, 46_frame_encoder.md R255). -/
def storeHeader (c : Config) (p canvasW k : Nat) : List Byte :=
  c.storePrefix.toList ++ le16 p ++ c.storeMid.toList ++ le16 canvasW ++ le16 k

/-- A whole STORE frame: header, then raster payload (30_encoding.md R103, R104). -/
def storeFrame (c : Config) (canvasW k : Nat) (payload : List Byte) : List Byte :=
  storeHeader c (paramLength k (canvasW / 8)) canvasW k ++ payload

/-- FLUSH, 7 bytes (30_encoding.md R105). -/
def flushFrame (c : Config) : List Byte := c.flushBytes.toList

/-- CUT, 4 bytes (30_encoding.md R106). -/
def cutFrame (c : Config) : List Byte := c.cutBytes.toList

end Sys2Proof
end

