-- ==== Sys2Proof/Machine/Operands.lean ====
section
/-! DEFINITION. The operand computations of the datapath, on mathematical integers, narrowed where a
value is stored (00_scope.md R17): fields of the registers, the ColorReducer's arithmetic, the
Ditherer's, the canvas geometry and the print geometry. -/

namespace Sys2Proof.Machine

/-- The writable bits of the read/write registers (40_host_commands.md R132). -/
def ctrlMask : Word := 0x0000001F
def threshMask : Word := 0x000000FF
def sizeMask : Word := 0x0000FFFF

/-- CTRL.ALIGN (10_state.md R34). -/
def alignOf (code : BitVec 2) : Align :=
  match code with
  | 0b00#2 => .unset
  | 0b01#2 => .left
  | 0b10#2 => .center
  | _ => .right

/-- The fields JOB_START latches (10_state.md R33, R35, R42; 30_encoding.md R92). -/
def jobCfgOf (ctrl thresh : Word) : JobCfg where
  cut := ctrl.getLsbD 0
  photo := ctrl.getLsbD 1
  rotate := ctrl.getLsbD 2
  align := alignOf (ctrl.extractLsb' 3 2)
  thr := thresh.extractLsb' 0 8

/-- WIDTH.W and HEIGHT.H (30_encoding.md R92). -/
def sizeField (v : Word) : BitVec 16 := v.extractLsb' 0 16

/-- `Comp(c, a)`: compositing against white, multiply, then truncating division (41_color_reducer.md R161). -/
def comp (c a : Byte) : Byte :=
  BitVec.ofNat 8 ((255 - a.toNat) + a.toNat * c.toNat / 255)

/-- `Luma(r', g', b')` (41_color_reducer.md R164). -/
def luma (r g b : Byte) : Byte :=
  BitVec.ofNat 8 ((55 * r.toNat + 182 * g.toNat + 18 * b.toNat) / 255)

/-- `Reduce(r, g, b, a)` (41_color_reducer.md R167). -/
def reducePixel (c : Config) (r g b a : Byte) : Byte :=
  c.lightness (luma (gamma (comp r a)) (gamma (comp g a)) (gamma (comp b a)))

/-- `255 * cdf / N`, truncating (42_tone_mapper.md R183, R185). -/
def equalize (cdf : BitVec 32) (n : Nat) : Byte :=
  BitVec.ofNat 8 (255 * cdf.toNat / n)

/-- 0 for a marked pixel (`v <= threshold`), 255 for an unmarked one (43_ditherer.md R201, 44_binarizer.md R221). -/
def binarizeByte (threshold v : Byte) : Byte :=
  if v.toNat ≤ threshold.toNat then 0 else 255

/-- The error term `e = (o - n) / 8`, truncated toward zero (43_ditherer.md R202, 00_scope.md R17). -/
def ditherError (o n : Byte) : Int := Int.tdiv ((o.toNat : Int) - (n.toNat : Int)) 8

/-- `clamp(v + e, 0, 255)` (43_ditherer.md R204). -/
def addClamped (v : Byte) (e : Int) : Byte :=
  BitVec.ofNat 8 (min 255 (max 0 ((v.toNat : Int) + e))).toNat

/-- The six forward neighbours' offsets `(dx, dy)`, in the rule's order (43_ditherer.md R201, R203). -/
def neighbourOffsets : List (Int × Nat) := [(1, 0), (2, 0), (-1, 1), (0, 1), (1, 1), (0, 2)]

/-- The LF index of the neighbour at `(x + dx, y + dy)`, if it is in the image (43_ditherer.md R203). -/
def neighbourIndex (w h x y : Nat) (d : Int × Nat) : Option Nat :=
  let nx := (x : Int) + d.1
  let ny := y + d.2
  if 0 ≤ nx ∧ nx < w ∧ ny < h then some (ny * w + nx.toNat) else none

/-- The scan order of an image: rows top to bottom, pixels left to right (43_ditherer.md R201). -/
def scanOrder (w h : Nat) : List (Nat × Nat) :=
  (List.range h).flatMap fun y => (List.range w).map fun x => (x, y)

/-- `canvas_w` (45_bit_packer.md R231). -/
def canvasWidth (w : Nat) : Nat := (w + 7) / 8 * 8

/-- The resolved alignment (45_bit_packer.md R236). -/
def resolveAlign (align : Align) (rotate : Bool) : Align :=
  if align = .unset ∧ rotate = true then .right else align

/-- `v & ~7`: bits 2..0 cleared (00_scope.md R17). -/
def clearLow3 (v : Nat) : Nat := v / 8 * 8

/-- `Offset(align, rotate, canvas_w)` (45_bit_packer.md R237). -/
def offsetDots (align : Align) (rotate : Bool) (canvasW : Nat) : Nat :=
  match resolveAlign align rotate with
  | .center => clearLow3 ((printerMaxWidth - canvasW) / 2)
  | .right => printerMaxWidth - canvasW
  | .left => 0
  | .unset => 0

/-- The physical index of logical pixel `i` of `n` (45_bit_packer.md R233). -/
def packIndex (rotate : Bool) (n i : Nat) : Nat := if rotate then n - 1 - i else i

/-- The canvas byte of column `x` of row `y` (45_bit_packer.md R232, R234). -/
def canvasByte (canvasW x y : Nat) : Nat := (y * canvasW + x) / 8

/-- The mask of column `x` within its byte, MSB first (20_memory.md R72). -/
def columnMask (x : Nat) : Byte := 0x80#8 >>> (x % 8)

/-- The height of the chunk that starts at row `row0` (46_frame_encoder.md R253). -/
def chunkHeight (gs8l imgH row0 : Nat) : Nat := min gs8l (imgH - row0)

end Sys2Proof.Machine
end

