-- ==== Sys2Proof/Machine/Ops.lean ====
section
/-! DEFINITION. The named operations the instructions share: buffers, error entry and the way out of it,
the gate of CMD and PIXIN writes, the datapath passes over a whole image, and the sending of bytes. -/

namespace Sys2Proof.Machine

/-! Buffers (20_memory.md R70, R82). -/

/-- Cell `i`: the last value written, else the free value the last reset left (log 3). -/
def Buf.read {w : Nat} (b : Buf w) (i : Nat) : BitVec w :=
  (b.cells.lookup i).getD (Config.freeCell w b.seed i)

/-- Write cell `i` in a rising list of cells. -/
def insertCell {w : Nat} (i : Nat) (v : BitVec w) : List (Nat × BitVec w) → List (Nat × BitVec w)
  | [] => [(i, v)]
  | (j, u) :: rest =>
    if i < j then (i, v) :: (j, u) :: rest
    else if i = j then (i, v) :: rest
    else (j, u) :: insertCell i v rest

/-- `buf[i] <- v`. -/
def Buf.write {w : Nat} (b : Buf w) (i : Nat) (v : BitVec w) : Buf w :=
  { b with cells := insertCell i v b.cells }

/-- `for i in 0..n-1: buf[i] <- f(buf[i])`, each cell from its own old value (20_memory.md R82). -/
def Buf.update {w : Nat} (b : Buf w) (n : Nat) (f : BitVec w → BitVec w) : Buf w :=
  { b with cells := (List.range n).map (fun i => (i, f (b.read i))) ++ b.cells.filter (fun c => n ≤ c.1) }

/-- `for i in 0..n-1: buf[i] <- 0`. -/
def Buf.zero {w : Nat} (b : Buf w) (n : Nat) : Buf w := b.update n fun _ => 0

/-- Cells `from .. from+count-1`, in order. -/
def Buf.slice {w : Nat} (b : Buf w) (start count : Nat) : List (BitVec w) :=
  (List.range count).map fun j => b.read (start + j)

/-! Errors and reset. -/

/-- `raise Err(k)`: the first error is recorded, the engine halts (60_exceptions.md R292). -/
def raiseErr (k : ErrKind) (s : State) : State :=
  if s.err then { s with phase := .halted }
  else { s with err := true, errcode := k, phase := .halted }

/-- Reset: every state of 10_state.md R54 to its reset value, the buffers' contents any value again
(70_reset_and_hazards.md R320, R322). What is not the engine's stays: the machine's parameters, the
bytes the sink has, what the host last read, and what the outside world has still to do. -/
def resetEngine (s : State) : State :=
  { State.reset with
    lf := ⟨s.draws, []⟩
    hist := ⟨s.draws + 1, []⟩
    canvas := ⟨s.draws + 2, []⟩
    conf := s.conf
    out := s.out
    rdata := s.rdata
    host := s.host
    turns := s.turns
    sink := s.sink
    draws := s.draws + 3 }

/-- A read completes: the host has `v` (40_host_commands.md R135). -/
def returnData (v : Word) (s : State) : State := { s with rdata := v }

/-- A CMD write (other than SOFT_RESET) or a PIXIN write: held while BUSY (40_host_commands.md R131),
without effect while ERROR (60_exceptions.md R293), otherwise it runs (40_host_commands.md R130). -/
def gated (i : Instr) (run : State → Result) (s : State) : Result :=
  if s.busy then .next { s with held := some i }
  else if s.err then .next s
  else run s

/-! The admission of an image (40_host_commands.md R136). -/

/-- IMAGE's checks, in the order of 60_exceptions.md R297, and its effect. -/
def admitImage (s : State) : State :=
  if s.phase ≠ .ready then raiseErr .commandError s
  else
    let w := sizeField s.width
    let h := sizeField s.height
    let s1 := { s with imgW := w, imgH := h }
    if w = 0 ∨ h = 0 then raiseErr .commandError s1
    else if printerMaxWidth < w.toNat then raiseErr .imageTooWide s1
    else
      let n := w.toNat * h.toNat
      let cw := canvasWidth w.toNat
      let st := cw / 8
      let s2 := { s1 with
        n := BitVec.ofNat 26 n, canvasW := BitVec.ofNat 10 cw, stride := BitVec.ofNat 7 st }
      if s.conf.lfCap < n ∨ s.conf.canvasCap < st * h.toNat then raiseErr .allocationFailure s2
      else
        { s2 with
          offset := BitVec.ofNat 10 (offsetDots s.cfg.align s.cfg.rotate cw)
          hist := s.hist.zero 256
          histMode := .count
          li := 0
          phase := .load }

/-! The datapath. -/

/-- REDUCE of one pixel, and the end of LOAD (41_color_reducer.md R170, R171). -/
def reduceStep (r g b a : Byte) (s : State) : Result :=
  if s.conf.lfCap ≤ s.li.toNat then .fault .lfIndex
  else
    let v := reducePixel s.conf r g b a
    let li' := s.li + 1
    .next { s with
      lf := s.lf.write s.li.toNat v
      hist := s.hist.write v.toNat (s.hist.read v.toNat + 1)
      li := li'
      phase := if li' = s.n then (if s.cfg.photo then .cdf else .binarize) else s.phase }

/-- The in-place prefix sum over the 256 buckets, in rising order (42_tone_mapper.md R181). -/
def prefixSums (h : Buf 32) : Buf 32 :=
  (List.range 255).foldl (fun h v => h.write (v + 1) (h.read v + h.read (v + 1))) h

/-- One contribution of the error `e`, clamped at once against the live cell (43_ditherer.md R203, R204). -/
def diffuseTo (w h x y : Nat) (e : Int) (m : Memory) (d : Int × Nat) : Memory :=
  match neighbourIndex w h x y d with
  | some j => m.write j (addClamped (m.read j) e)
  | none => m

/-- One pixel of the pass: binarize it, then spread its error (43_ditherer.md R201). -/
def ditherPixel (w h : Nat) (threshold : Byte) (m : Memory) (px : Nat × Nat) : Memory :=
  let i := px.2 * w + px.1
  let o := m.read i
  let n := binarizeByte threshold o
  neighbourOffsets.foldl (diffuseTo w h px.1 px.2 (ditherError o n)) (m.write i n)

/-- The whole pass, in scan order against the live buffer (43_ditherer.md R201, R205). -/
def ditherAll (w h : Nat) (threshold : Byte) (m : Memory) : Memory :=
  (scanOrder w h).foldl (ditherPixel w h threshold) m

/-- Set the dot of logical pixel `i` if it is marked (45_bit_packer.md R232, R233). -/
def packPixel (rotate : Bool) (n w canvasW : Nat) (lf : Memory) (m : Memory) (i : Nat) : Memory :=
  if lf.read i = 0 then
    let idx := packIndex rotate n i
    let x := idx % w
    let j := canvasByte canvasW x (idx / w)
    m.write j (m.read j ||| columnMask x)
  else m

/-- Zero the canvas of the image, then set the dots of the marked pixels (45_bit_packer.md R232). -/
def packAll (rotate : Bool) (n w h canvasW stride : Nat) (lf canvas : Memory) : Memory :=
  (List.range n).foldl (packPixel rotate n w canvasW lf) (canvas.zero (stride * h))

/-- No canvas byte that PACK touches is past the capacity: the zero fill, and the last column of the last
row a pixel can land in (20_memory.md R80). -/
def packInRange (s : State) : Bool :=
  s.stride.toNat * s.imgH.toNat ≤ s.conf.canvasCap &&
    (s.n.toNat == 0 ||
      canvasByte s.canvasW.toNat (s.imgW.toNat - 1) ((s.n.toNat - 1) / s.imgW.toNat) < s.conf.canvasCap)

/-! Sending bytes (20_memory.md R75, 46_frame_encoder.md R261). -/

/-- The sink's answer to this offer: the next one the outside world has decided, else a free value
(log 2). -/
def drawAnswer (s : State) : SinkAnswer × State :=
  match s.sink with
  | a :: rest => (a, { s with sink := rest })
  | [] => (Config.freeAnswer s.draws, { s with draws := s.draws + 1 })

/-- The first frame of a chunk: MARGIN only if `offset != 0` (46_frame_encoder.md R254, R257). -/
def firstFrame (s : State) : FrameKind := if s.offset ≠ 0 then .margin else .store

/-- Start of a chunk: its height, and its first frame (46_frame_encoder.md R253, R254, R257). -/
def chunkStart (s : State) : State :=
  { s with
    k := BitVec.ofNat 11 (chunkHeight s.conf.gs8lMaxY s.imgH.toNat s.row0.toNat)
    pos := .before (firstFrame s) }

/-- What follows the last byte of a frame: after INIT (46_frame_encoder.md R251), MARGIN and STORE (R254),
FLUSH (R259, R260) and CUT (R262). -/
def frameDone (kind : FrameKind) (s : State) : State :=
  match kind with
  | .init => { s with jobActive := true, phase := .ready, pos := .start }
  | .margin => { s with pos := .before .store }
  | .store => { s with pos := .before .flush }
  | .flush =>
    let row := s.row0 + s.k.setWidth 16
    if row = s.imgH then { s with row0 := row, phase := .ready, pos := .start }
    else chunkStart { s with row0 := row }
  | .cut => { s with jobActive := false, phase := .idle, pos := .start }

/-- One `Emit`: offer the first of the frame's remaining bytes (20_memory.md R75, 46_frame_encoder.md R261).
Accepted, it joins the stream, and the last one ends the frame; on a stall the same bytes remain; on a
failure the byte is not delivered and SinkWriteFailure is raised (60_exceptions.md R296). -/
def sendBytes (kind : FrameKind) (bytes : List Byte) (s : State) : State :=
  match bytes with
  | [] => frameDone kind s
  | b :: rest =>
    let drawn := drawAnswer s
    match drawn.1 with
    | .accept =>
      let s' := { drawn.2 with out := drawn.2.out ++ [b] }
      if rest = [] then frameDone kind s' else { s' with pos := .inside kind rest }
    | .stall => { drawn.2 with pos := .inside kind bytes }
    | .fail => raiseErr .sinkWriteFailure drawn.2

/-- The raster payload of the chunk: `CANVAS[row0*stride .. (row0+k)*stride - 1]` (46_frame_encoder.md R256). -/
def chunkPayload (s : State) : List Byte :=
  s.canvas.slice (s.row0.toNat * s.stride.toNat) (s.k.toNat * s.stride.toNat)

/-- The bytes of the frame of this kind that the latched geometry gives (30_encoding.md R94;
46_frame_encoder.md R255 to R258). -/
def frameBytes (kind : FrameKind) (s : State) : List Byte :=
  match kind with
  | .init => initFrame s.conf
  | .margin => marginFrame s.conf s.offset.toNat
  | .store =>
    storeHeader s.conf (paramLength s.k.toNat s.stride.toNat) s.canvasW.toNat s.k.toNat ++ chunkPayload s
  | .flush => flushFrame s.conf
  | .cut => cutFrame s.conf

/-- Begin a frame: offer its first byte. A payload past the canvas buffer is a fault (20_memory.md R80). -/
def beginFrame (kind : FrameKind) (s : State) : Result :=
  if kind = .store ∧ s.conf.canvasCap < (s.row0.toNat + s.k.toNat) * s.stride.toNat then .fault .canvasIndex
  else .next (sendBytes kind (frameBytes kind s) s)

/-- Go on with the frames of a phase from the encoder's place; at the start of the phase `ready` prepares
the frame `first`. -/
def emitFrom (first : FrameKind) (ready : State → State) (s : State) : Result :=
  match s.pos with
  | .start => beginFrame first (ready s)
  | .before kind => beginFrame kind s
  | .inside kind rest => .next (sendBytes kind rest s)

end Sys2Proof.Machine
end

