-- ==== Sys2Proof/Machine/Bus.lean ====
section
/-! DEFINITION. Bus writes and reads of the register block (40_host_commands.md R132, R135;
10_state.md R32). None is ever held and none raises an error. -/

namespace Sys2Proof.Machine

/-- `WR CTRL`: bits 4:0 are stored, the rest discarded (R132). -/
def execWrCtrl (data : Word) (s : State) : Result := .next { s with ctrl := data &&& ctrlMask }

/-- `WR THRESH`: bits 7:0 are stored (R132). -/
def execWrThresh (data : Word) (s : State) : Result := .next { s with thresh := data &&& threshMask }

/-- `WR WIDTH`: bits 15:0 are stored (R132). -/
def execWrWidth (data : Word) (s : State) : Result := .next { s with width := data &&& sizeMask }

/-- `WR HEIGHT`: bits 15:0 are stored (R132). -/
def execWrHeight (data : Word) (s : State) : Result := .next { s with height := data &&& sizeMask }

/-- `WR STATUS`: ignored, the register is read-only (10_state.md R32). -/
def execWrStatus (_data : Word) (s : State) : Result := .next s

/-- `WR EFF_THRESH`: ignored, the register is read-only (10_state.md R32). -/
def execWrEffThresh (_data : Word) (s : State) : Result := .next s

/-- `WR` at an unmapped offset: ignored (10_state.md R32). -/
def execWrUnmapped (_off _data : Word) (s : State) : Result := .next s

/-- `RD CTRL` (R135). -/
def execRdCtrl (s : State) : Result := .next (returnData s.ctrl s)

/-- `RD THRESH` (R135). -/
def execRdThresh (s : State) : Result := .next (returnData s.thresh s)

/-- `RD WIDTH` (R135). -/
def execRdWidth (s : State) : Result := .next (returnData s.width s)

/-- `RD HEIGHT` (R135). -/
def execRdHeight (s : State) : Result := .next (returnData s.height s)

/-- `RD CMD`: write-only, reads 0 (R135). -/
def execRdCmd (s : State) : Result := .next (returnData 0 s)

/-- `RD STATUS` (R135, 10_state.md R38). -/
def execRdStatus (s : State) : Result := .next (returnData (statusWord s) s)

/-- `RD PIXIN`: write-only, reads 0 (R135). -/
def execRdPixin (s : State) : Result := .next (returnData 0 s)

/-- `RD EFF_THRESH`: `{24'b0, eff_thr}` (R135). -/
def execRdEffThresh (s : State) : Result := .next (returnData (s.effThr.setWidth 32) s)

/-- `RD` at an unmapped offset: 0 (R135). -/
def execRdUnmapped (_off : Word) (s : State) : Result := .next (returnData 0 s)

end Sys2Proof.Machine
end

