-- ==== Sys2Proof/Machine/Command.lean ====
section
/-! DEFINITION. The commands: writes to CMD (40_host_commands.md R133 to R139). -/

namespace Sys2Proof.Machine

/-- `NOP`: no effect, but held while BUSY like the others (R133). -/
def execNop (ignored : BitVec 28) (s : State) : Result :=
  gated (.nop ignored) (fun s => .next s) s

/-- JOB_START once it takes effect (R134): the configuration is latched, the INIT phase is entered. -/
def startJob (s : State) : State :=
  if s.phase ≠ .idle then raiseErr .commandError s
  else { s with cfg := jobCfgOf s.ctrl s.thresh, phase := .init, pos := .start }

/-- `JOB_START` (R134). -/
def execJobStart (ignored : BitVec 28) (s : State) : Result :=
  gated (.jobStart ignored) (fun s => .next (startJob s)) s

/-- `IMAGE` (R136). -/
def execImage (ignored : BitVec 28) (s : State) : Result :=
  gated (.image ignored) (fun s => .next (admitImage s)) s

/-- JOB_END once it takes effect (R137). -/
def endJob (s : State) : State :=
  if s.phase ≠ .ready then raiseErr .commandError s
  else if s.cfg.cut then { s with phase := .cut, pos := .start }
  else { s with jobActive := false, phase := .idle }

/-- `JOB_END` (R137). -/
def execJobEnd (ignored : BitVec 28) (s : State) : Result :=
  gated (.jobEnd ignored) (fun s => .next (endJob s)) s

/-- `SOFT_RESET`: never held, in every phase (R138). -/
def execSoftReset (_ignored : BitVec 28) (s : State) : Result := .next (resetEngine s)

/-- `RESERVED_4`: CommandError (R139). -/
def execReserved4 (ignored : BitVec 28) (s : State) : Result :=
  gated (.reserved4 ignored) (fun s => .next (raiseErr .commandError s)) s

/-- `RESERVED_5`: CommandError (R139). -/
def execReserved5 (ignored : BitVec 28) (s : State) : Result :=
  gated (.reserved5 ignored) (fun s => .next (raiseErr .commandError s)) s

/-- `RESERVED_6`: CommandError (R139). -/
def execReserved6 (ignored : BitVec 28) (s : State) : Result :=
  gated (.reserved6 ignored) (fun s => .next (raiseErr .commandError s)) s

/-- `RESERVED_7`: CommandError (R139). -/
def execReserved7 (ignored : BitVec 28) (s : State) : Result :=
  gated (.reserved7 ignored) (fun s => .next (raiseErr .commandError s)) s

/-- `RESERVED_8`: CommandError (R139). -/
def execReserved8 (ignored : BitVec 28) (s : State) : Result :=
  gated (.reserved8 ignored) (fun s => .next (raiseErr .commandError s)) s

/-- `RESERVED_9`: CommandError (R139). -/
def execReserved9 (ignored : BitVec 28) (s : State) : Result :=
  gated (.reserved9 ignored) (fun s => .next (raiseErr .commandError s)) s

/-- `RESERVED_A`: CommandError (R139). -/
def execReservedA (ignored : BitVec 28) (s : State) : Result :=
  gated (.reservedA ignored) (fun s => .next (raiseErr .commandError s)) s

/-- `RESERVED_B`: CommandError (R139). -/
def execReservedB (ignored : BitVec 28) (s : State) : Result :=
  gated (.reservedB ignored) (fun s => .next (raiseErr .commandError s)) s

/-- `RESERVED_C`: CommandError (R139). -/
def execReservedC (ignored : BitVec 28) (s : State) : Result :=
  gated (.reservedC ignored) (fun s => .next (raiseErr .commandError s)) s

/-- `RESERVED_D`: CommandError (R139). -/
def execReservedD (ignored : BitVec 28) (s : State) : Result :=
  gated (.reservedD ignored) (fun s => .next (raiseErr .commandError s)) s

/-- `RESERVED_E`: CommandError (R139). -/
def execReservedE (ignored : BitVec 28) (s : State) : Result :=
  gated (.reservedE ignored) (fun s => .next (raiseErr .commandError s)) s

end Sys2Proof.Machine
end

