-- ==== Sys2Proof/Machine/FrameOps.lean ====
section
/-! DEFINITION. The output frames as operations: begin to send one, by offering its first byte; the phase
operation that is running sends the rest, a byte a step (46_frame_encoder.md R251 to R262; log 9). -/

namespace Sys2Proof.Machine

/-- `FRAME_INIT` (30_encoding.md R101). -/
def execFrameInit (s : State) : Result := .next (sendBytes .init (initFrame s.conf) s)

/-- `FRAME_MARGIN` (30_encoding.md R102). -/
def execFrameMargin (offset : BitVec 16) (s : State) : Result :=
  .next (sendBytes .margin (marginFrame s.conf offset.toNat) s)

/-- `FRAME_STORE`: header and payload (30_encoding.md R103, R104). -/
def execFrameStore (canvasW k : BitVec 16) (payload : List Byte) (s : State) : Result :=
  .next (sendBytes .store (storeFrame s.conf canvasW.toNat k.toNat payload) s)

/-- `FRAME_FLUSH` (30_encoding.md R105). -/
def execFrameFlush (s : State) : Result := .next (sendBytes .flush (flushFrame s.conf) s)

/-- `FRAME_CUT` (30_encoding.md R106). -/
def execFrameCut (s : State) : Result := .next (sendBytes .cut (cutFrame s.conf) s)

end Sys2Proof.Machine
end

