-- ==== Sys2Proof/Machine/PhaseOps.lean ====
section
/-! DEFINITION. The engine's internal operations (40_host_commands.md R143; 30_encoding.md R112): one
atomic step each for CDF, REMAP, DITHER, BINARIZE and PACK, one offered byte a step for the others. -/

namespace Sys2Proof.Machine

/-- `CDF` (42_tone_mapper.md R181). -/
def execCdf (s : State) : Result :=
  .next { s with hist := prefixSums s.hist, histMode := .cdf, phase := .remap }

/-- `REMAP`: every pixel, then the threshold, through the same CDF (42_tone_mapper.md R183, R185). -/
def execRemap (s : State) : Result :=
  if s.n.toNat = 0 then .fault .divideByZero
  else if s.conf.lfCap < s.n.toNat then .fault .lfIndex
  else
    .next { s with
      lf := s.lf.update s.n.toNat fun v => equalize (s.hist.read v.toNat) s.n.toNat
      effThr := equalize (s.hist.read s.cfg.thr.toNat) s.n.toNat
      phase := .dither }

/-- `DITHER` (43_ditherer.md R201). -/
def execDither (s : State) : Result :=
  if s.conf.lfCap < s.imgW.toNat * s.imgH.toNat then .fault .lfIndex
  else .next { s with lf := ditherAll s.imgW.toNat s.imgH.toNat s.effThr s.lf, phase := .pack }

/-- `BINARIZE` (44_binarizer.md R221). -/
def execBinarize (s : State) : Result :=
  if s.conf.lfCap < s.n.toNat then .fault .lfIndex
  else
    .next { s with
      effThr := s.cfg.thr
      lf := s.lf.update s.n.toNat (binarizeByte s.cfg.thr)
      phase := .pack }

/-- `PACK`, and the start of EMIT (45_bit_packer.md R232). -/
def execPack (s : State) : Result :=
  if s.n.toNat ≠ 0 ∧ s.imgW.toNat = 0 then .fault .divideByZero
  else if s.conf.lfCap < s.n.toNat then .fault .lfIndex
  else if packInRange s = false then .fault .canvasIndex
  else
    .next { s with
      canvas := packAll s.cfg.rotate s.n.toNat s.imgW.toNat s.imgH.toNat s.canvasW.toNat s.stride.toNat
        s.lf s.canvas
      phase := .emit
      pos := .start }

/-- `EMIT`: one engine step, one offered byte (46_frame_encoder.md R254, R261). Entering the phase sets
`row0` to 0 (10_state.md R51). -/
def execEmit (s : State) : Result :=
  emitFrom (firstFrame s) (fun s => chunkStart { s with row0 := 0 }) s

/-- `INIT` emission, one offered byte (46_frame_encoder.md R251). -/
def execInitEmit (s : State) : Result := emitFrom .init (fun s => s) s

/-- `CUT` emission, one offered byte (46_frame_encoder.md R262). -/
def execCutEmit (s : State) : Result := emitFrom .cut (fun s => s) s

end Sys2Proof.Machine
end

