-- ==== Sys2Proof/Machine/Pixel.lean ====
section
/-! DEFINITION. The pixel write and the ColorReducer operation it triggers (40_host_commands.md R140;
41_color_reducer.md R170, R171). -/

namespace Sys2Proof.Machine

/-- `PIX`: a PIXIN write. CommandError outside LOAD, otherwise REDUCE of the pixel (40_host_commands.md R140). -/
def execPix (r g b a : Byte) (s : State) : Result :=
  gated (.pix r g b a)
    (fun s => if s.phase ≠ .load then .next (raiseErr .commandError s) else reduceStep r g b a s) s

/-- `REDUCE` (41_color_reducer.md R170). -/
def execReduce (r g b a : Byte) (s : State) : Result := reduceStep r g b a s

end Sys2Proof.Machine
end

