-- ==== Sys2Proof/Machine/Dispatch.lean ====
section
/-! DEFINITION. One arm per instruction, each a direct call of its meaning. -/

namespace Sys2Proof.Machine

def exec (i : Instr) (s : State) : Host.Outcome State Fault Refusal :=
  match i with
  | .wrCtrl data => Sys2Proof.Machine.execWrCtrl data s
  | .wrThresh data => Sys2Proof.Machine.execWrThresh data s
  | .wrWidth data => Sys2Proof.Machine.execWrWidth data s
  | .wrHeight data => Sys2Proof.Machine.execWrHeight data s
  | .wrStatus data => Sys2Proof.Machine.execWrStatus data s
  | .wrEffThresh data => Sys2Proof.Machine.execWrEffThresh data s
  | .wrUnmapped off data => Sys2Proof.Machine.execWrUnmapped off data s
  | .rdCtrl => Sys2Proof.Machine.execRdCtrl s
  | .rdThresh => Sys2Proof.Machine.execRdThresh s
  | .rdWidth => Sys2Proof.Machine.execRdWidth s
  | .rdHeight => Sys2Proof.Machine.execRdHeight s
  | .rdCmd => Sys2Proof.Machine.execRdCmd s
  | .rdStatus => Sys2Proof.Machine.execRdStatus s
  | .rdPixin => Sys2Proof.Machine.execRdPixin s
  | .rdEffThresh => Sys2Proof.Machine.execRdEffThresh s
  | .rdUnmapped off => Sys2Proof.Machine.execRdUnmapped off s
  | .nop ignored => Sys2Proof.Machine.execNop ignored s
  | .jobStart ignored => Sys2Proof.Machine.execJobStart ignored s
  | .image ignored => Sys2Proof.Machine.execImage ignored s
  | .jobEnd ignored => Sys2Proof.Machine.execJobEnd ignored s
  | .softReset ignored => Sys2Proof.Machine.execSoftReset ignored s
  | .reserved4 ignored => Sys2Proof.Machine.execReserved4 ignored s
  | .reserved5 ignored => Sys2Proof.Machine.execReserved5 ignored s
  | .reserved6 ignored => Sys2Proof.Machine.execReserved6 ignored s
  | .reserved7 ignored => Sys2Proof.Machine.execReserved7 ignored s
  | .reserved8 ignored => Sys2Proof.Machine.execReserved8 ignored s
  | .reserved9 ignored => Sys2Proof.Machine.execReserved9 ignored s
  | .reservedA ignored => Sys2Proof.Machine.execReservedA ignored s
  | .reservedB ignored => Sys2Proof.Machine.execReservedB ignored s
  | .reservedC ignored => Sys2Proof.Machine.execReservedC ignored s
  | .reservedD ignored => Sys2Proof.Machine.execReservedD ignored s
  | .reservedE ignored => Sys2Proof.Machine.execReservedE ignored s
  | .pix r g b a => Sys2Proof.Machine.execPix r g b a s
  | .reduce r g b a => Sys2Proof.Machine.execReduce r g b a s
  | .cdf => Sys2Proof.Machine.execCdf s
  | .remap => Sys2Proof.Machine.execRemap s
  | .dither => Sys2Proof.Machine.execDither s
  | .binarize => Sys2Proof.Machine.execBinarize s
  | .pack => Sys2Proof.Machine.execPack s
  | .emit => Sys2Proof.Machine.execEmit s
  | .initEmit => Sys2Proof.Machine.execInitEmit s
  | .cutEmit => Sys2Proof.Machine.execCutEmit s
  | .frameInit => Sys2Proof.Machine.execFrameInit s
  | .frameMargin offset => Sys2Proof.Machine.execFrameMargin offset s
  | .frameStore canvasW k payload => Sys2Proof.Machine.execFrameStore canvasW k payload s
  | .frameFlush => Sys2Proof.Machine.execFrameFlush s
  | .frameCut => Sys2Proof.Machine.execFrameCut s

end Sys2Proof.Machine
end

