-- ==== Sys2Proof/WellFormed.lean ====
section
/-! DEFINITION. Which terms of `Instr` are instructions of a machine with given parameters. -/

namespace Sys2Proof

/-- An offset of the unmapped part of the register window (10_state.md R32): a multiple of 4
(20_memory.md R77), 0x20 or above, in the window (20_memory.md R78). -/
def unmappedOk (c : Config) (off : Word) : Bool :=
  off.toNat % 4 == 0 && 0x20 ≤ off.toNat && off.toNat < c.regSize

/-- The offset field of a MARGIN frame: `0 < offset <= 504`, a multiple of 8 (30_encoding.md R94,
46_frame_encoder.md R257). -/
def marginOk (offset : BitVec 16) : Bool :=
  offset.toNat % 8 == 0 && 0 < offset.toNat && offset.toNat ≤ 504

/-- The fields of a STORE frame: `8 <= canvas_w <= 512`, a multiple of 8, `1 <= k <= GS8L_MAX_Y`, and
`k*stride` payload bytes (30_encoding.md R94, R104). -/
def storeOk (c : Config) (canvasW k : BitVec 16) (payload : List Byte) : Bool :=
  canvasW.toNat % 8 == 0 && 8 ≤ canvasW.toNat && canvasW.toNat ≤ printerMaxWidth &&
    1 ≤ k.toNat && k.toNat ≤ c.gs8lMaxY && payload.length == k.toNat * (canvasW.toNat / 8)

/-- Well-formed for a machine with parameters `c`. -/
def Instr.wellFormed (c : Config) (i : Instr) : Bool :=
  match i with
  | .wrCtrl _ => true
  | .wrThresh _ => true
  | .wrWidth _ => true
  | .wrHeight _ => true
  | .wrStatus _ => true
  | .wrEffThresh _ => true
  | .wrUnmapped off _ => unmappedOk c off
  | .rdCtrl => true
  | .rdThresh => true
  | .rdWidth => true
  | .rdHeight => true
  | .rdCmd => true
  | .rdStatus => true
  | .rdPixin => true
  | .rdEffThresh => true
  | .rdUnmapped off => unmappedOk c off
  | .nop _ => true
  | .jobStart _ => true
  | .image _ => true
  | .jobEnd _ => true
  | .softReset _ => true
  | .reserved4 _ => true
  | .reserved5 _ => true
  | .reserved6 _ => true
  | .reserved7 _ => true
  | .reserved8 _ => true
  | .reserved9 _ => true
  | .reservedA _ => true
  | .reservedB _ => true
  | .reservedC _ => true
  | .reservedD _ => true
  | .reservedE _ => true
  | .pix _ _ _ _ => true
  | .reduce _ _ _ _ => true
  | .cdf => true
  | .remap => true
  | .dither => true
  | .binarize => true
  | .pack => true
  | .emit => true
  | .initEmit => true
  | .cutEmit => true
  | .frameInit => true
  | .frameMargin offset => marginOk offset
  | .frameStore canvasW k payload => storeOk c canvasW k payload
  | .frameFlush => true
  | .frameCut => true

end Sys2Proof
end

