-- ==== Sys2Proof/Decode.lean ====
section
/-! DEFINITION. Decoding, total on everything that can be fetched and rejecting by name, and the
encoder written from the same tables (10_state.md R32; 30_encoding.md R91 to R112). -/

namespace Sys2Proof

/-- Why nothing can be run for what was fetched. -/
inductive DecodeError where
  /-- A byte or halfword access (20_memory.md R77). -/
  | narrowAccess
  /-- A word access at an offset that is no multiple of 4 (20_memory.md R77). -/
  | misalignedAccess
  /-- An offset outside the platform's register window (20_memory.md R78). -/
  | outsideWindow
  /-- A phase code that names no operation: IDLE, READY, HALTED and 0xB to 0xE (30_encoding.md R112). -/
  | noOperation (code : BitVec 4)
  /-- Bytes that are not one output frame (30_encoding.md R100). -/
  | notAFrame
deriving DecidableEq, Repr

/-- CODE = bits 3:0 of a CMD word selects; bits 31:4 are carried along and select nothing
(30_encoding.md R95, R96). -/
def decodeCmd (data : Word) : Instr :=
  let ignored := data.extractLsb' 4 28
  match data.extractLsb' 0 4 with
  | 0x0#4 => .nop ignored
  | 0x1#4 => .jobStart ignored
  | 0x2#4 => .image ignored
  | 0x3#4 => .jobEnd ignored
  | 0x4#4 => .reserved4 ignored
  | 0x5#4 => .reserved5 ignored
  | 0x6#4 => .reserved6 ignored
  | 0x7#4 => .reserved7 ignored
  | 0x8#4 => .reserved8 ignored
  | 0x9#4 => .reserved9 ignored
  | 0xA#4 => .reservedA ignored
  | 0xB#4 => .reservedB ignored
  | 0xC#4 => .reservedC ignored
  | 0xD#4 => .reservedD ignored
  | 0xE#4 => .reservedE ignored
  | _ => .softReset ignored -- 0xF, the one code left

/-- The four lanes of a PIX word (30_encoding.md R93). -/
def pixR (v : Word) : Byte := v.extractLsb' 0 8
def pixG (v : Word) : Byte := v.extractLsb' 8 8
def pixB (v : Word) : Byte := v.extractLsb' 16 8
def pixA (v : Word) : Byte := v.extractLsb' 24 8

/-- The PIX word of four lanes (30_encoding.md R114). -/
def pixWord (r g b a : Byte) : Word := a ++ b ++ g ++ r

/-- The register a write selects (10_state.md R32, 30_encoding.md R91). -/
def decodeWrite (off data : Word) : Instr :=
  if off = 0x00 then .wrCtrl data
  else if off = 0x04 then .wrThresh data
  else if off = 0x08 then .wrWidth data
  else if off = 0x0C then .wrHeight data
  else if off = 0x10 then decodeCmd data
  else if off = 0x14 then .wrStatus data
  else if off = 0x18 then .pix (pixR data) (pixG data) (pixB data) (pixA data)
  else if off = 0x1C then .wrEffThresh data
  else .wrUnmapped off data

/-- The register a read selects (10_state.md R32, 40_host_commands.md R135). -/
def decodeRead (off : Word) : Instr :=
  if off = 0x00 then .rdCtrl
  else if off = 0x04 then .rdThresh
  else if off = 0x08 then .rdWidth
  else if off = 0x0C then .rdHeight
  else if off = 0x10 then .rdCmd
  else if off = 0x14 then .rdStatus
  else if off = 0x18 then .rdPixin
  else if off = 0x1C then .rdEffThresh
  else .rdUnmapped off

/-- A bus access: word-wide, aligned and in the window (20_memory.md R77, R78), then by direction. -/
def decodeBus (c : Config) (a : BusAccess) : Except DecodeError Instr :=
  if a.size ≠ .word then .error .narrowAccess
  else if a.off.toNat % 4 ≠ 0 then .error .misalignedAccess
  else if c.regSize ≤ a.off.toNat then .error .outsideWindow
  else match a.dir with
    | .write => .ok (decodeWrite a.off a.data)
    | .read => .ok (decodeRead a.off)

/-- The operation a phase code names (30_encoding.md R112). -/
def decodePhase (code : BitVec 4) (pixel : Word) : Except DecodeError Instr :=
  match code with
  | 0x2#4 => .ok (.reduce (pixR pixel) (pixG pixel) (pixB pixel) (pixA pixel))
  | 0x3#4 => .ok .cdf
  | 0x4#4 => .ok .remap
  | 0x5#4 => .ok .dither
  | 0x6#4 => .ok .binarize
  | 0x7#4 => .ok .pack
  | 0x8#4 => .ok .emit
  | 0x9#4 => .ok .initEmit
  | 0xA#4 => .ok .cutEmit
  | other => .error (.noOperation other)

/-- The MARGIN frame these bytes are, if they are one (30_encoding.md R102). -/
def asMargin (c : Config) (bytes : List Byte) : Option Instr :=
  let offset := ofLe16 (bytes.getD 2 0) (bytes.getD 3 0)
  if bytes = marginFrame c offset.toNat ∧ marginOk offset then some (.frameMargin offset) else none

/-- The STORE frame these bytes are, if they are one: its length is read from its own bytes
(30_encoding.md R103, R108). -/
def asStore (c : Config) (bytes : List Byte) : Option Instr :=
  let canvasW := ofLe16 (bytes.getD 13 0) (bytes.getD 14 0)
  let k := ofLe16 (bytes.getD 15 0) (bytes.getD 16 0)
  let payload := bytes.drop 17
  if bytes = storeFrame c canvasW.toNat k.toNat payload ∧ storeOk c canvasW k payload then
    some (.frameStore canvasW k payload)
  else none

/-- One output frame read from the stream (30_encoding.md R108). -/
def decodeFrame (c : Config) (bytes : List Byte) : Except DecodeError Instr :=
  if bytes = initFrame c then .ok .frameInit
  else if bytes = cutFrame c then .ok .frameCut
  else if bytes = flushFrame c then .ok .frameFlush
  else match asMargin c bytes with
    | some i => .ok i
    | none => match asStore c bytes with
      | some i => .ok i
      | none => .error .notAFrame

/-- Everything that can be fetched. -/
def decode (c : Config) (f : Fetch) : Except DecodeError Instr :=
  match f with
  | .bus a => decodeBus c a
  | .phase code pixel => decodePhase code pixel
  | .frame bytes => decodeFrame c bytes

/-- A write to CMD (30_encoding.md R95). -/
def cmdWrite (code : BitVec 4) (ignored : BitVec 28) : Fetch := .bus (.wr 0x10 (ignored ++ code))

/-- The encoding of an instruction (10_state.md R32; 30_encoding.md R91, R93, R95, R100 to R106, R112). -/
def encode (c : Config) (i : Instr) : Fetch :=
  match i with
  | .wrCtrl data => .bus (.wr 0x00 data)
  | .wrThresh data => .bus (.wr 0x04 data)
  | .wrWidth data => .bus (.wr 0x08 data)
  | .wrHeight data => .bus (.wr 0x0C data)
  | .wrStatus data => .bus (.wr 0x14 data)
  | .wrEffThresh data => .bus (.wr 0x1C data)
  | .wrUnmapped off data => .bus (.wr off data)
  | .rdCtrl => .bus (.rd 0x00)
  | .rdThresh => .bus (.rd 0x04)
  | .rdWidth => .bus (.rd 0x08)
  | .rdHeight => .bus (.rd 0x0C)
  | .rdCmd => .bus (.rd 0x10)
  | .rdStatus => .bus (.rd 0x14)
  | .rdPixin => .bus (.rd 0x18)
  | .rdEffThresh => .bus (.rd 0x1C)
  | .rdUnmapped off => .bus (.rd off)
  | .nop ignored => cmdWrite 0x0 ignored
  | .jobStart ignored => cmdWrite 0x1 ignored
  | .image ignored => cmdWrite 0x2 ignored
  | .jobEnd ignored => cmdWrite 0x3 ignored
  | .softReset ignored => cmdWrite 0xF ignored
  | .reserved4 ignored => cmdWrite 0x4 ignored
  | .reserved5 ignored => cmdWrite 0x5 ignored
  | .reserved6 ignored => cmdWrite 0x6 ignored
  | .reserved7 ignored => cmdWrite 0x7 ignored
  | .reserved8 ignored => cmdWrite 0x8 ignored
  | .reserved9 ignored => cmdWrite 0x9 ignored
  | .reservedA ignored => cmdWrite 0xA ignored
  | .reservedB ignored => cmdWrite 0xB ignored
  | .reservedC ignored => cmdWrite 0xC ignored
  | .reservedD ignored => cmdWrite 0xD ignored
  | .reservedE ignored => cmdWrite 0xE ignored
  | .pix r g b a => .bus (.wr 0x18 (pixWord r g b a))
  | .reduce r g b a => .phase 0x2 (pixWord r g b a)
  | .cdf => .phase 0x3 0
  | .remap => .phase 0x4 0
  | .dither => .phase 0x5 0
  | .binarize => .phase 0x6 0
  | .pack => .phase 0x7 0
  | .emit => .phase 0x8 0
  | .initEmit => .phase 0x9 0
  | .cutEmit => .phase 0xA 0
  | .frameInit => .frame (initFrame c)
  | .frameMargin offset => .frame (marginFrame c offset.toNat)
  | .frameStore canvasW k payload => .frame (storeFrame c canvasW.toNat k.toNat payload)
  | .frameFlush => .frame (flushFrame c)
  | .frameCut => .frame (cutFrame c)

/-- The lowest `n` bytes of a number, the lowest first. -/
def bytesOf (n w : Nat) : List Byte := (List.range n).map fun j => BitVec.ofNat 8 (w / 256 ^ j)

/-- What a word of spec/opcode_table.json stands for. A row's bits do not carry its format or, for BUS
rows, its direction, so several rows share a word; log 7 says which reading is taken:
- up to 8 bits: the CODE of a CMD write;
- 32 bits, 0x10 or 0x18: a BUS read at that offset (no BUS row writes there);
- 32 bits, any other multiple of 4: a BUS write at that offset, data 0;
- 32 bits, no multiple of 4, below 16: the CODE of a CMD write;
- 32 bits, no multiple of 4, 16 or above: a PIX word;
- any other length: the bytes of an output frame. -/
def tableFetch (nbits w : Nat) : Fetch :=
  if nbits ≤ 8 then .bus (.wr 0x10 (BitVec.ofNat 32 (w % 256)))
  else if nbits = 32 then
    if w = 0x10 ∨ w = 0x18 then .bus (.rd (BitVec.ofNat 32 w))
    else if w % 4 = 0 then .bus (.wr (BitVec.ofNat 32 w) 0)
    else if w < 16 then .bus (.wr 0x10 (BitVec.ofNat 32 w))
    else .bus (.wr 0x18 (BitVec.ofNat 32 w))
  else .frame (bytesOf (nbits / 8) w)

/-- The instruction the decoder of the reference machine reads from a word of the table. -/
def decodeTableWord (nbits w : Nat) : Option Instr :=
  (decode Config.reference (tableFetch nbits w)).toOption

end Sys2Proof
end

