-- ==== Sys2Proof/Machine/Sequencer.lean ====
section
/-! DEFINITION. What the next step is: the interleaving of host and engine (40_host_commands.md R130,
R131), and where a step fetches what it runs. -/

namespace Sys2Proof.Machine

/-- What a step does. -/
inductive Move where
  /-- Nobody can move: the engine waits for a host that has nothing to write (log 13). -/
  | wait
  /-- The platform's power-on reset (70_reset_and_hazards.md R320). -/
  | powerOn
  /-- A held write takes effect (40_host_commands.md R131). -/
  | complete (i : Instr)
  /-- The host makes its next access. -/
  | access (a : BusAccess)
  /-- The engine takes a step of the phase it is in (40_host_commands.md R143). -/
  | operate (code : BitVec 4)
deriving DecidableEq, Repr

/-- The host's move, with the state it is made in: a held write first, which waits until BUSY = 0; it
blocks the accesses after it (40_host_commands.md R131, 20_memory.md R81). -/
def hostMove (s : State) : Option (Move × State) :=
  match s.held with
  | some i => if s.busy then none else some (.complete i, { s with held := none })
  | none =>
    match s.host with
    | [] => none
    | a :: rest => some (.access a, { s with host := rest })

/-- The engine's move: it has one exactly while BUSY (40_host_commands.md R130). -/
def engineMove (s : State) : Option (Move × State) :=
  if s.busy then some (.operate s.phase.code, s) else none

/-- The first agent's move, else the second's, else waiting. -/
def preferred (first second : Option (Move × State)) (s : State) : Move × State :=
  match first with
  | some m => m
  | none =>
    match second with
    | some m => m
    | none => (.wait, s)

/-- The next move. The head of `turns` says who moves; an agent that cannot move leaves the turn to the
other. With no turn decided, the only agent that can move does, and where both can, a free value decides
(93_implementation_defined.md U8; log 1). -/
def chooseMove (s : State) : Move × State :=
  match s.turns with
  | .powerOn :: rest => (.powerOn, { s with turns := rest })
  | .host :: rest =>
    let t := { s with turns := rest }
    preferred (hostMove t) (engineMove t) t
  | .engine :: rest =>
    let t := { s with turns := rest }
    preferred (engineMove t) (hostMove t) t
  | [] =>
    match hostMove s with
    | none => preferred (engineMove s) none s
    | some h =>
      match engineMove s with
      | none => h
      | some e =>
        match Config.freeAgent s.draws with
        | .host => (h.1, { h.2 with draws := h.2.draws + 1 })
        | .engine => (e.1, { e.2 with draws := e.2.draws + 1 })

/-- The refusal for what cannot be decoded. -/
def refusalOf (e : DecodeError) : Refusal :=
  match e with
  | .narrowAccess => .narrowAccess
  | .misalignedAccess => .misalignedAccess
  | .outsideWindow => .outsideWindow
  | .noOperation _ => .noOperation
  | .notAFrame => .notAFrame

/-- Put the engine where its next step is an operation of this kind (log 7): in the operation's phase, and
for an output frame, in the phase and at the place where that frame is next. -/
def placeOperation (i : Instr) (s : State) : State :=
  match i with
  | .cdf => { s with phase := .cdf }
  | .remap => { s with phase := .remap }
  | .dither => { s with phase := .dither }
  | .binarize => { s with phase := .binarize }
  | .pack => { s with phase := .pack }
  | .emit => { s with phase := .emit, pos := .start }
  | .initEmit => { s with phase := .init, pos := .start }
  | .cutEmit => { s with phase := .cut, pos := .start }
  | .frameInit => { s with phase := .init, pos := .start }
  | .frameMargin offset => { s with phase := .emit, pos := .before .margin, offset := offset.setWidth 10 }
  | .frameStore canvasW k payload =>
    { s with
      phase := .emit
      pos := .before .store
      canvasW := canvasW.setWidth 10
      stride := BitVec.ofNat 7 (canvasW.toNat / 8)
      row0 := 0
      k := k.setWidth 11
      canvas := { s.canvas with cells := (List.range payload.length).zip payload } }
  | .frameFlush => { s with phase := .emit, pos := .before .flush }
  | .frameCut => { s with phase := .cut, pos := .start }
  | _ => s

/-- Store what is fetched where the next step fetches it, and give that step to the agent that runs it
(log 7). -/
def placeFetch (f : Fetch) (s : State) : State :=
  match f with
  | .bus a => { s with held := none, host := a :: s.host, turns := .host :: s.turns }
  | .phase _ _ | .frame _ =>
    match decode s.conf f with
    | .ok i => { placeOperation i s with turns := .engine :: s.turns }
    | .error _ => s

end Sys2Proof.Machine
end

