-- ==== Sys2Proof/Machine/Step.lean ====
section
/-! DEFINITION. One step of the machine: choose the move, fetch, decode, execute. -/

namespace Sys2Proof.Machine

/-- Decode what was fetched and run it. -/
def runFetched (f : Fetch) (s : State) : Host.Outcome State Fault Refusal :=
  match decode s.conf f with
  | .ok i => exec i s
  | .error e => .refused (refusalOf e)

/-- Make a move in the state it was chosen for. -/
def makeMove (m : Move) (s : State) : Host.Outcome State Fault Refusal :=
  match m with
  | .wait => .next s
  | .powerOn => .next (resetEngine s)
  | .complete i => exec i s
  | .access a => runFetched (.bus a) s
  | .operate code => runFetched (.phase code 0) s

/-- One step: a host step, an engine step, a power-on reset, or waiting (40_host_commands.md R130). -/
def step (s : State) : Host.Outcome State Fault Refusal :=
  makeMove (chooseMove s).1 (chooseMove s).2

/-- The state whose next step fetches and runs the instruction that a word of the opcode table stands
for (log 7). -/
def State.withFetchWord (s : State) (nbits w : Nat) : State := placeFetch (tableFetch nbits w) s

end Sys2Proof.Machine
end

