-- ==== Sys2Proof/Safety.lean ====
section
/-! DEFINITION. What counts as an end of a run, and the invariant of the machine, in the terms claims use
(40_host_commands.md R141, R142; 60_exceptions.md R311; 20_memory.md R80). -/

namespace Sys2Proof.Machine

/-- The host has made all its accesses and none is held (40_host_commands.md R141). -/
def State.hostDone (s : State) : Prop := s.host = [] ∧ s.held = none

/-- The run ends well (40_host_commands.md R141). -/
def State.EndsWell (s : State) : Prop := s.hostDone ∧ s.phase = .idle ∧ s.err = false

/-- The run ends in error (40_host_commands.md R141). -/
def State.EndsInError (s : State) : Prop := s.phase = .halted

/-- Stuck: the engine waits in LOAD and the host has nothing more to write (60_exceptions.md R311). -/
def State.StuckInLoad (s : State) : Prop := s.hostDone ∧ s.phase = .load

/-- What a run has produced: the accepted bytes, and ERRCODE where it ended in error (R141). -/
def State.result (s : State) : List Byte × ErrKind := (s.out, s.errcode)

/-- The phases in which an admitted image is in the engine. -/
def Phase.inImage (p : Phase) : Bool :=
  match p with
  | .load => true
  | .cdf => true
  | .remap => true
  | .dither => true
  | .binarize => true
  | .pack => true
  | .emit => true
  | .idle => false
  | .ready => false
  | .init => false
  | .cut => false
  | .halted => false

/-- The geometry latch holds an image that IMAGE admitted (40_host_commands.md R136; 45_bit_packer.md
R231, R237; 20_memory.md R80). -/
structure State.Admitted (s : State) : Prop where
  width_pos : 0 < s.imgW.toNat
  height_pos : 0 < s.imgH.toNat
  width_le : s.imgW.toNat ≤ printerMaxWidth
  n_eq : s.n.toNat = s.imgW.toNat * s.imgH.toNat
  canvasW_eq : s.canvasW.toNat = canvasWidth s.imgW.toNat
  stride_eq : s.stride.toNat = s.canvasW.toNat / 8
  offset_eq : s.offset.toNat = offsetDots s.cfg.align s.cfg.rotate s.canvasW.toNat
  fits_lf : s.n.toNat ≤ s.conf.lfCap
  fits_canvas : s.stride.toNat * s.imgH.toNat ≤ s.conf.canvasCap

/-- An instruction that can be a held write: a CMD write other than SOFT_RESET, or a PIXIN write
(10_state.md R39, 40_host_commands.md R131). -/
def isHoldable (i : Instr) : Bool :=
  match i with
  | .nop _ | .jobStart _ | .image _ | .jobEnd _ | .reserved4 _ | .reserved5 _ | .reserved6 _
  | .reserved7 _ | .reserved8 _ | .reserved9 _ | .reservedA _ | .reservedB _ | .reservedC _
  | .reservedD _ | .reservedE _ | .pix _ _ _ _ => true
  | .wrCtrl _ | .wrThresh _ | .wrWidth _ | .wrHeight _ | .wrStatus _ | .wrEffThresh _
  | .wrUnmapped _ _ | .rdCtrl | .rdThresh | .rdWidth | .rdHeight | .rdCmd | .rdStatus | .rdPixin
  | .rdEffThresh | .rdUnmapped _ | .softReset _ | .reduce _ _ _ _ | .cdf | .remap | .dither
  | .binarize | .pack | .emit | .initEmit | .cutEmit | .frameInit | .frameMargin _
  | .frameStore _ _ _ | .frameFlush | .frameCut => false

/-- Where the encoder may be inside a frame of this kind, with bytes still to send. -/
def EncPos.within (p : EncPos) (kind : FrameKind) : Prop :=
  ∃ rest, rest ≠ [] ∧ p = .inside kind rest

/-- Where the encoder may be in a chunk (46_frame_encoder.md R250, R254). -/
def EncPos.inChunk (p : EncPos) (offset : BitVec 10) : Prop :=
  (offset ≠ 0 ∧ (p = .before .margin ∨ p.within .margin)) ∨
    p = .before .store ∨ p.within .store ∨ p = .before .flush ∨ p.within .flush

/-- The frame encoder's position fits the phase (10_state.md R51; 46_frame_encoder.md R253, R260). -/
def State.EncoderOk (s : State) : Prop :=
  match s.phase with
  | .init => s.pos = .start ∨ s.pos.within .init
  | .cut => s.pos = .start ∨ s.pos.within .cut
  | .emit => s.pos = .start ∨
      (s.pos.inChunk s.offset ∧ s.row0.toNat < s.imgH.toNat ∧
        s.k.toNat = chunkHeight s.conf.gs8lMaxY s.imgH.toNat s.row0.toNat)
  | .halted => True
  | _ => s.pos = .start

/-- JOB_ACTIVE in each phase (10_state.md R45): unset before a job's init frame is sent, set from then until
the job ends; an error leaves it as it is. -/
def State.JobFlagOk (s : State) : Prop :=
  match s.phase with
  | .idle => s.jobActive = false
  | .init => s.jobActive = false
  | .halted => True
  | _ => s.jobActive = true

/-- The load index, HIST's mode and the photo path in each phase of an image (10_state.md R44, R48;
40_host_commands.md R144). -/
def State.ImageProgressOk (s : State) : Prop :=
  match s.phase with
  | .load => s.li.toNat < s.n.toNat ∧ s.histMode = .count
  | .cdf => s.li = s.n ∧ s.histMode = .count ∧ s.cfg.photo = true
  | .remap => s.li = s.n ∧ s.histMode = .cdf ∧ s.cfg.photo = true
  | .dither => s.li = s.n ∧ s.histMode = .cdf ∧ s.cfg.photo = true
  | .binarize => s.li = s.n ∧ s.histMode = .count ∧ s.cfg.photo = false
  | .pack => s.li = s.n
  | .emit => s.li = s.n
  | _ => True

/-- The reserved bits of the read/write registers hold 0 (10_state.md R32). -/
structure State.ReservedZero (s : State) : Prop where
  ctrl : s.ctrl &&& ~~~ctrlMask = 0
  thresh : s.thresh &&& ~~~threshMask = 0
  width : s.width &&& ~~~sizeMask = 0
  height : s.height &&& ~~~sizeMask = 0

/-- The invariant of the machine: it holds after reset and every step keeps it. -/
structure State.Inv (s : State) : Prop where
  conf_wf : s.conf.Wf
  reserved : s.ReservedZero
  lf_wf : s.lf.wf
  hist_wf : s.hist.wf
  canvas_wf : s.canvas.wf
  /-- HALTED and ERROR go together (60_exceptions.md R292, R293). -/
  halted_iff : s.phase = .halted ↔ s.err = true
  errcode_iff : s.errcode = .none ↔ s.err = false
  job_flag : s.JobFlagOk
  held_ok : ∀ i, s.held = some i → isHoldable i = true
  geometry : s.phase.inImage = true → s.Admitted
  progress : s.ImageProgressOk
  encoder : s.EncoderOk

/-- While the histogram is in count mode, each counter is the number of accepted pixels of that lightness
(10_state.md R48). -/
def State.HistCounts (s : State) : Prop :=
  (s.phase = .load ∨ s.phase = .cdf ∨ s.phase = .binarize) →
    ∀ v : Byte, (s.hist.read v.toNat).toNat = (List.range s.li.toNat).countP fun i => s.lf.read i == v

/-- Every pixel of the image is marked (0) or unmarked (255) once the passes are done (43_ditherer.md R206,
44_binarizer.md R221). -/
def State.BinaryField (s : State) : Prop :=
  (s.phase = .pack ∨ s.phase = .emit) →
    ∀ i, i < s.n.toNat → s.lf.read i = 0 ∨ s.lf.read i = 255

/-- The number of chunks of an image of height `h`: `ceil(h / GS8L_MAX_Y)` (46_frame_encoder.md R252). -/
def chunkCount (gs8l h : Nat) : Nat := (h + gs8l - 1) / gs8l

/-- The bytes of one chunk: MARGIN if `offset != 0`, STORE header, raster rows, FLUSH (30_encoding.md R107). -/
def chunkStream (c : Config) (offset canvasW stride : Nat) (canvas : Memory) (row k : Nat) : List Byte :=
  (if offset ≠ 0 then marginFrame c offset else []) ++ storeHeader c (paramLength k stride) canvasW k ++
    canvas.slice (row * stride) (k * stride) ++ flushFrame c

/-- The bytes an image of height `h` is sent as: its chunks, chunk `j` covering the rows from
`j*GS8L_MAX_Y` on (30_encoding.md R107, 46_frame_encoder.md R252). -/
def imageStream (c : Config) (offset canvasW stride h : Nat) (canvas : Memory) : List Byte :=
  (List.range (chunkCount c.gs8lMaxY h)).flatMap fun j =>
    chunkStream c offset canvasW stride canvas (j * c.gs8lMaxY) (min c.gs8lMaxY (h - j * c.gs8lMaxY))

/-- The moves the rules allow the phase from one step to the next, errors and resets apart (10_state.md
R52, 40_host_commands.md R143). -/
def nextPhases (photo cut : Bool) (p : Phase) : List Phase :=
  match p with
  | .idle => [.idle, .init]
  | .init => [.init, .ready]
  | .ready => [.ready, .load, if cut then .cut else .idle]
  | .load => [.load, if photo then .cdf else .binarize]
  | .cdf => [.cdf, .remap]
  | .remap => [.remap, .dither]
  | .dither => [.dither, .pack]
  | .binarize => [.binarize, .pack]
  | .pack => [.pack, .emit]
  | .emit => [.emit, .ready]
  | .cut => [.cut, .idle]
  | .halted => [.halted]

end Sys2Proof.Machine
end

