-- ==== Sys2Proof/Certificates/Slice0/Obligations.lean ====
section
/-! DEFINITION. The statements for the provers. An equation `exec i s = .next { s with … }` says the whole
effect and the whole frame: every field not named, every register, buffer and queue, is as before. -/

namespace Sys2Proof.Claims

open Sys2Proof Sys2Proof.Machine

/-- WIDTH.W and HEIGHT.H as numbers (30_encoding.md R92). -/
def regW (s : State) : Nat := s.width.toNat % 65536
def regH (s : State) : Nat := s.height.toNat % 65536

/-- `s` with the error `k` recorded and the engine halted (60_exceptions.md R292). -/
def halted (k : ErrKind) (s : State) : State := { s with err := true, errcode := k, phase := .halted }

/-- The PHASE codes as numbers (10_state.md R38). -/
def phaseNumber (p : Phase) : Nat :=
  match p with
  | .idle => 0
  | .ready => 1
  | .load => 2
  | .cdf => 3
  | .remap => 4
  | .dither => 5
  | .binarize => 6
  | .pack => 7
  | .emit => 8
  | .init => 9
  | .cut => 10
  | .halted => 15

/-- BUSY as a number: 1 in exactly these eight phases (10_state.md R39). -/
def busyNumber (p : Phase) : Nat :=
  if p ∈ [Phase.cdf, .remap, .dither, .binarize, .pack, .emit, .init, .cut] then 1 else 0

/-- The ERRCODE values as numbers (60_exceptions.md R291). -/
def errNumber (k : ErrKind) : Nat :=
  match k with
  | .none => 0
  | .imageTooWide => 1
  | .allocationFailure => 2
  | .sinkWriteFailure => 3
  | .commandError => 4

/-- The bytes of each frame, field by field (30_encoding.md R101 to R106), with the operation that begins it. -/
def frameTable (c : Config) (offset canvasW k : BitVec 16) (payload : List Byte) :
    List (Instr × FrameKind × List Byte) :=
  let lo := fun v : Nat => BitVec.ofNat 8 v
  let hi := fun v : Nat => BitVec.ofNat 8 (v / 256)
  let p := 10 + k.toNat * (canvasW.toNat / 8)
  [(.frameInit, .init, [c.initBytes[0], c.initBytes[1]]),
    (.frameMargin offset, .margin, [c.marginPrefix[0], c.marginPrefix[1], lo offset.toNat, hi offset.toNat]),
    (.frameStore canvasW k payload, .store,
      [c.storePrefix[0], c.storePrefix[1], c.storePrefix[2], lo p, hi p, c.storeMid[0], c.storeMid[1],
        c.storeMid[2], c.storeMid[3], c.storeMid[4], c.storeMid[5], c.storeMid[6], c.storeMid[7],
        lo canvasW.toNat, hi canvasW.toNat, lo k.toNat, hi k.toNat] ++ payload),
    (.frameFlush, .flush,
      [c.flushBytes[0], c.flushBytes[1], c.flushBytes[2], c.flushBytes[3], c.flushBytes[4], c.flushBytes[5],
        c.flushBytes[6]]),
    (.frameCut, .cut, [c.cutBytes[0], c.cutBytes[1], c.cutBytes[2], c.cutBytes[3]])]

/-- Where a frame begins: the emission operation, the place it is run from, the kind of frame that begins, and the
state that frame is sent from. At the start of EMIT, `row0` is 0, the first chunk's height is taken, and its
first frame is next (46_frame_encoder.md R251, R254, R257, R262; the places are the model's, log 10). -/
def Begins (op : Instr) (s : State) (kind : FrameKind) (u : State) : Prop :=
  (op = .initEmit ∧ s.pos = .start ∧ kind = .init ∧ u = s) ∨
  (op = .cutEmit ∧ s.pos = .start ∧ kind = .cut ∧ u = s) ∨
  (op = .emit ∧ s.pos = .before kind ∧ u = s) ∨
  (op = .emit ∧ s.pos = .start ∧ kind = (if s.offset = 0 then .store else .margin) ∧
    u = { s with row0 := 0, k := BitVec.ofNat 11 (min s.conf.gs8lMaxY s.imgH.toNat), pos := .before kind })

/-- The eleven reserved commands (40_host_commands.md R139). -/
def reservedCommands (x : BitVec 28) : List Instr :=
  [.reserved4 x, .reserved5 x, .reserved6 x, .reserved7 x, .reserved8 x, .reserved9 x, .reservedA x,
    .reservedB x, .reservedC x, .reservedD x, .reservedE x]

/-- The sixteen commands, in the order of their codes (30_encoding.md R95). -/
def commands (x : BitVec 28) : List Instr :=
  [.nop x, .jobStart x, .image x, .jobEnd x] ++ reservedCommands x ++ [.softReset x]

/-- `t` is `s` after a reset: the values of 10_state.md R54; the buffers hold no cell that anything wrote;
the stream, the parameters and the outside world are as they were. -/
def ResetOf (s t : State) : Prop :=
  t.ctrl = 0 ∧ t.thresh = 0x80 ∧ t.width = 0 ∧ t.height = 0 ∧ statusWord t = 0 ∧ t.effThr = 0 ∧
  t.cfg = { cut := false, photo := false, rotate := false, align := .unset, thr := 0x80 } ∧
  t.imgW = 0 ∧ t.imgH = 0 ∧ t.n = 0 ∧ t.canvasW = 0 ∧ t.stride = 0 ∧ t.offset = 0 ∧
  t.phase = .idle ∧ t.li = 0 ∧ t.row0 = 0 ∧ t.jobActive = false ∧ t.err = false ∧ t.errcode = .none ∧
  t.held = none ∧ t.lf.cells = [] ∧ t.hist.cells = [] ∧ t.canvas.cells = [] ∧
  t.out = s.out ∧ t.conf = s.conf ∧ t.rdata = s.rdata ∧ t.host = s.host ∧ t.sink = s.sink

/-- Nobody but the engine has anything to do, and no turn is decided. -/
def EngineAlone (s : State) : Prop := s.turns = [] ∧ s.host = [] ∧ s.held = none

/-- The stream of the image in the engine. -/
def imageBytes (s : State) : List Byte :=
  imageStream s.conf s.offset.toNat s.canvasW.toNat s.stride.toNat s.imgH.toNat s.canvas

end Sys2Proof.Claims

open Sys2Proof Sys2Proof.Machine Sys2Proof.Claims

/-! Encoding. -/

/-- Decoding an encoded well-formed instruction gives it back, on every machine (30_encoding.md R91 to R112). -/
def Obligations.DecodeEncodeRoundTrip : Prop :=
  ∀ (c : Config) (i : Instr), c.Wf → c.FramesDiffer → i.wellFormed c = true → decode c (encode c i) = .ok i

/-- Whatever the decoder accepts, the encoder writes back, so that no accepted bit is dropped: all of a
write, the direction and offset of a read, a phase code (with the pixel only for REDUCE), every byte of a
frame. What is accepted is well-formed (30_encoding.md R91, R96, R108, R112; the forms of `Fetch` are the
model's, log 6, 8). -/
def Obligations.AcceptedFetchReencodes : Prop :=
  ∀ c : Config,
    (∀ a i, decode c (.bus a) = .ok i →
      i.wellFormed c = true ∧ encode c i = .bus (if a.dir = .read then { a with data := 0 } else a)) ∧
    (∀ code pixel i, decode c (.phase code pixel) = .ok i →
      i.wellFormed c = true ∧ encode c i = .phase code (if code = 2 then pixel else 0)) ∧
    (∀ bytes i, decode c (.frame bytes) = .ok i → i.wellFormed c = true ∧ encode c i = .frame bytes)

/-- A CMD word selects its command by bits 3:0 alone (30_encoding.md R95). -/
def Obligations.CommandCodesSelect : Prop :=
  ∀ (c : Config) (x : BitVec 28) (code : BitVec 4), c.Wf →
    (decode c (.bus (.wr 0x10 (x ++ code)))).toOption = (commands x)[code.toNat]? ∧
    (∀ (y : BitVec 28) (s : State), s.busy = false → ∀ i j,
      (commands x)[code.toNat]? = some i → (commands y)[code.toNat]? = some j → exec i s = exec j s)

/-- The lanes of a PIX word (30_encoding.md R93). -/
def Obligations.PixLanesDecode : Prop :=
  ∀ (c : Config) (v : Word), c.Wf →
    decode c (.bus (.wr 0x18 v)) =
      .ok (.pix (BitVec.ofNat 8 v.toNat) (BitVec.ofNat 8 (v.toNat / 2 ^ 8))
        (BitVec.ofNat 8 (v.toNat / 2 ^ 16)) (BitVec.ofNat 8 (v.toNat / 2 ^ 24)))

/-- A few words written out from the spec's encodings decode to what they stand for (sanity;
95_test_vectors.md P1, P2, E7; 30_encoding.md R95, R96, R112). The MARGIN word assumes the reference frame bytes
MARGIN_PREFIX = 1D 4C of 30_encoding.md R110, the model's by log 4 (PRESUMED). -/
def Obligations.SpecWordsDecode : Prop :=
  decode Config.reference (.bus ⟨.write, .word, 0x00, 0x00000009⟩) = .ok (.wrCtrl 9) ∧
  decode Config.reference (.bus ⟨.write, .word, 0x10, 0x12345671⟩) = .ok (.jobStart 0x1234567) ∧
  decode Config.reference (.bus ⟨.write, .word, 0x18, 0xFF000000⟩) = .ok (.pix 0 0 0 255) ∧
  decode Config.reference (.bus ⟨.read, .word, 0x14, 0⟩) = .ok .rdStatus ∧
  decode Config.reference (.phase 0x7 0) = .ok .pack ∧
  decode Config.reference (.frame [0x1D, 0x4C, 0xF0, 0x01]) = .ok (.frameMargin 496)

/-! The step. -/

/-- A byte or halfword access, or one at an offset that is no multiple of 4, is refused (20_memory.md R77; whose turn a
step is stands in the model's list of turns, log 1). -/
def Obligations.NarrowAndMisalignedRefused : Prop :=
  ∀ (s : State) (a : BusAccess) (rest : List BusAccess) (ts : List Turn),
    s.held = none → s.host = a :: rest → s.turns = .host :: ts →
      (a.size ≠ .word → step s = .refused .narrowAccess) ∧
      (a.size = .word → a.off.toNat % 4 ≠ 0 → step s = .refused .misalignedAccess)

/-- On the host's turn, or when the engine is not busy and no turn is decided, a step takes the host's
next access off its list and runs the instruction it decodes to (40_host_commands.md R130; the lists of turns
and of accesses are the model's, log 1, 7). -/
def Obligations.StepRunsHostAccess : Prop :=
  ∀ (s : State) (a : BusAccess) (rest : List BusAccess) (i : Instr),
    s.held = none → s.host = a :: rest → decode s.conf (.bus a) = .ok i →
      (∀ ts, s.turns = .host :: ts → step s = exec i { s with host := rest, turns := ts }) ∧
      (s.turns = [] → s.busy = false → step s = exec i { s with host := rest })

/-- In a busy phase, on the engine's turn or when the host cannot move, a step runs the phase's operation
(40_host_commands.md R143, 30_encoding.md R112; the list of turns is the model's, log 1). -/
def Obligations.StepRunsEngineOperation : Prop :=
  ∀ (s u : State),
    (∃ ts, s.turns = .engine :: ts ∧ u = { s with turns := ts }) ∨ (EngineAlone s ∧ u = s) →
      (s.phase = .cdf → step s = exec .cdf u) ∧ (s.phase = .remap → step s = exec .remap u) ∧
      (s.phase = .dither → step s = exec .dither u) ∧ (s.phase = .binarize → step s = exec .binarize u) ∧
      (s.phase = .pack → step s = exec .pack u) ∧ (s.phase = .emit → step s = exec .emit u) ∧
      (s.phase = .init → step s = exec .initEmit u) ∧ (s.phase = .cut → step s = exec .cutEmit u)

/-- A held write blocks the host: while BUSY every turn is the engine's; once BUSY = 0 the next step,
whoever's turn it is, lets the write take effect (40_host_commands.md R131, 20_memory.md R81; the list of turns
is the model's, log 1). -/
def Obligations.HeldWriteBlocksThenCompletes : Prop :=
  ∀ (s : State) (i : Instr), s.held = some i →
    (s.busy = true → ∀ ts, s.turns = .host :: ts → step s = step { s with turns := .engine :: ts }) ∧
    (s.busy = true → s.turns = [] → step s = step { s with turns := [.engine] }) ∧
    (s.busy = false → s.turns = [] → step s = exec i { s with held := none }) ∧
    (s.busy = false → ∀ ts, s.turns = .host :: ts ∨ s.turns = .engine :: ts →
      step s = exec i { s with held := none, turns := ts })

/-- A power-on reset takes effect whatever the engine and the host are doing (70_reset_and_hazards.md R320). That
it is a turn, that a held write is dropped and that the host's remaining accesses stay is the model's choice
(log 16), for R334 leaves the held access to the platform; what `ResetOf` says of `rdata` and of the buffers'
cells is the model's too (log 12, 3). A step in which nobody can move changes nothing (model's choice, log 13). -/
def Obligations.PowerOnResetsAndIdleWaits : Prop :=
  (∀ (s : State) (ts : List Turn), s.turns = .powerOn :: ts →
    ∃ t, step s = .next t ∧ t.turns = ts ∧ ResetOf s t) ∧
  (∀ s : State, s.busy = false → EngineAlone s → step s = .next s)

/-! Bus accesses. -/

/-- Writes of CTRL, THRESH, WIDTH and HEIGHT store their field in every phase and are never held
(40_host_commands.md R132). -/
def Obligations.RegisterWritesStore : Prop :=
  ∀ (d : Word) (s : State),
    exec (.wrCtrl d) s = .next { s with ctrl := BitVec.ofNat 32 (d.toNat % 2 ^ 5) } ∧
    exec (.wrThresh d) s = .next { s with thresh := BitVec.ofNat 32 (d.toNat % 2 ^ 8) } ∧
    exec (.wrWidth d) s = .next { s with width := BitVec.ofNat 32 (d.toNat % 2 ^ 16) } ∧
    exec (.wrHeight d) s = .next { s with height := BitVec.ofNat 32 (d.toNat % 2 ^ 16) }

/-- Writes of read-only registers and of unmapped offsets are ignored (10_state.md R32, 20_memory.md R79). -/
def Obligations.OtherWritesIgnored : Prop :=
  ∀ (off d : Word) (s : State),
    exec (.wrStatus d) s = .next s ∧ exec (.wrEffThresh d) s = .next s ∧
    exec (.wrUnmapped off d) s = .next s

/-- What each read returns, in every phase, and that it has no side effect; STATUS field by field
in numbers, phase by phase and error by error (40_host_commands.md R135; 10_state.md R38, R39; 60_exceptions.md
R291). What a read returns stands in `rdata` (log 12). -/
def Obligations.ReadsReturnRegisters : Prop :=
  ∀ (off : Word) (s : State),
    exec .rdCtrl s = .next { s with rdata := s.ctrl } ∧
    exec .rdThresh s = .next { s with rdata := s.thresh } ∧
    exec .rdWidth s = .next { s with rdata := s.width } ∧
    exec .rdHeight s = .next { s with rdata := s.height } ∧
    exec .rdCmd s = .next { s with rdata := 0 } ∧
    exec .rdPixin s = .next { s with rdata := 0 } ∧
    exec (.rdUnmapped off) s = .next { s with rdata := 0 } ∧
    exec .rdEffThresh s = .next { s with rdata := BitVec.ofNat 32 s.effThr.toNat } ∧
    exec .rdStatus s = .next { s with
      rdata := BitVec.ofNat 32 (phaseNumber s.phase + 2 ^ 4 * busyNumber s.phase + 2 ^ 5 * s.jobActive.toNat +
        2 ^ 6 * s.err.toNat + 2 ^ 8 * errNumber s.errcode) }

/-! Commands. -/

/-- NOP has no effect in any phase in which it is not held (40_host_commands.md R133). -/
def Obligations.NopHasNoEffect : Prop :=
  ∀ (x : BitVec 28) (s : State),
    (s.busy = false → exec (.nop x) s = .next s) ∧
    (s.busy = true → exec (.nop x) s = .next { s with held := some (.nop x) })

/-- Every CMD write but SOFT_RESET, and every PIXIN write, is held while BUSY, with no other effect
(40_host_commands.md R131, 10_state.md R39). -/
def Obligations.WritesHeldWhileBusy : Prop :=
  ∀ (i : Instr) (s : State), isHoldable i = true → s.busy = true → exec i s = .next { s with held := some i }

/-- While ERROR = 1 they have no effect (60_exceptions.md R293). -/
def Obligations.CommandsIgnoredWhileError : Prop :=
  ∀ (i : Instr) (s : State), isHoldable i = true → s.busy = false → s.err = true → exec i s = .next s

/-- JOB_START in IDLE latches the configuration and enters INIT (40_host_commands.md R134; the encoder's
place, `pos`, is the model's, log 10). -/
def Obligations.JobStartLatchesConfiguration : Prop :=
  ∀ (x : BitVec 28) (s : State), s.phase = .idle → s.err = false →
    ∃ t, exec (.jobStart x) s = .next t ∧ t = { s with cfg := t.cfg, phase := .init, pos := .start } ∧
      t.cfg.cut = s.ctrl.getLsbD 0 ∧ t.cfg.photo = s.ctrl.getLsbD 1 ∧ t.cfg.rotate = s.ctrl.getLsbD 2 ∧
      (s.ctrl.toNat / 8 % 4 = 0 → t.cfg.align = .unset) ∧ (s.ctrl.toNat / 8 % 4 = 1 → t.cfg.align = .left) ∧
      (s.ctrl.toNat / 8 % 4 = 2 → t.cfg.align = .center) ∧ (s.ctrl.toNat / 8 % 4 = 3 → t.cfg.align = .right) ∧
      t.cfg.thr = BitVec.ofNat 8 s.thresh.toNat

/-- IMAGE in READY with an image that fits: the geometry latch, HIST zeroed and in count mode, `li` 0,
phase LOAD, and nothing else (40_host_commands.md R136). -/
def Obligations.ImageAdmits : Prop :=
  ∀ (x : BitVec 28) (s : State), s.phase = .ready → s.err = false →
    0 < regW s → 0 < regH s → regW s ≤ 512 → regW s * regH s ≤ s.conf.lfCap →
    (regW s + 7) / 8 * regH s ≤ s.conf.canvasCap →
    ∃ t, exec (.image x) s = .next t ∧
      t = { s with
        imgW := t.imgW, imgH := t.imgH, n := t.n, canvasW := t.canvasW, stride := t.stride,
        offset := t.offset, hist := t.hist, histMode := .count, li := 0, phase := .load } ∧
      t.imgW.toNat = regW s ∧ t.imgH.toNat = regH s ∧ t.n.toNat = regW s * regH s ∧
      t.canvasW.toNat = (regW s + 7) / 8 * 8 ∧ t.stride.toNat = (regW s + 7) / 8 ∧
      t.offset.toNat = offsetDots s.cfg.align s.cfg.rotate ((regW s + 7) / 8 * 8) ∧
      ∀ v, v < 256 → t.hist.read v = 0

/-- IMAGE's checks, first to fail first; only the geometry latch and the error record change
(60_exceptions.md R297, R294, R295; 40_host_commands.md R136). -/
def Obligations.ImageErrorPriority : Prop :=
  ∀ (x : BitVec 28) (s : State), s.busy = false → s.err = false →
    (s.phase ≠ .ready → exec (.image x) s = .next (halted .commandError s)) ∧
    (s.phase = .ready →
      (regW s = 0 ∨ regH s = 0 ∨ 512 < regW s ∨ s.conf.lfCap < regW s * regH s ∨
        s.conf.canvasCap < (regW s + 7) / 8 * regH s) →
      ∃ t k, exec (.image x) s = .next t ∧
        t = { s with
          imgW := t.imgW, imgH := t.imgH, n := t.n, canvasW := t.canvasW, stride := t.stride,
          err := true, errcode := k, phase := .halted } ∧
        (regW s = 0 ∨ regH s = 0 → k = .commandError) ∧
        (regW s ≠ 0 → regH s ≠ 0 → 512 < regW s → k = .imageTooWide) ∧
        (regW s ≠ 0 → regH s ≠ 0 → regW s ≤ 512 → k = .allocationFailure))

/-- JOB_END in READY enters CUT if a cut was requested, else ends the job (40_host_commands.md R137; the
encoder's place, `pos`, is the model's, log 10). -/
def Obligations.JobEndEndsOrCuts : Prop :=
  ∀ (x : BitVec 28) (s : State), s.phase = .ready → s.err = false →
    (s.cfg.cut = true → exec (.jobEnd x) s = .next { s with phase := .cut, pos := .start }) ∧
    (s.cfg.cut = false → exec (.jobEnd x) s = .next { s with jobActive := false, phase := .idle })

/-- SOFT_RESET in every phase: every state of 10_state.md R54 at its reset value, the stream as it was
(40_host_commands.md R138). What the outside world holds stays too, `rdata` among it (model's choice, log 12),
and the buffers, which R54 leaves unspecified, list no cell (model's choice, log 3). -/
def Obligations.SoftResetResets : Prop :=
  ∀ (x : BitVec 28) (s : State), ∃ t, exec (.softReset x) s = .next t ∧ t.turns = s.turns ∧ ResetOf s t

/-- What raises CommandError, and that nothing but the error record changes (60_exceptions.md R298, R292;
for IMAGE with a zero dimension, also the geometry latch, in `ImageErrorPriority`). -/
def Obligations.CommandErrorRaised : Prop :=
  ∀ (x : BitVec 28) (r g b a : Byte) (s : State), s.busy = false → s.err = false →
    (s.phase ≠ .idle → exec (.jobStart x) s = .next (halted .commandError s)) ∧
    (s.phase ≠ .ready → exec (.image x) s = .next (halted .commandError s)) ∧
    (s.phase ≠ .ready → exec (.jobEnd x) s = .next (halted .commandError s)) ∧
    (s.phase ≠ .load → exec (.pix r g b a) s = .next (halted .commandError s)) ∧
    ∀ i ∈ reservedCommands x, exec i s = .next (halted .commandError s)

/-! ColorReducer. -/

/-- An accepted pixel: its lightness goes to cell `li`, its counter and `li` go up by one, and the N-th pixel
ends LOAD; the internal REDUCE has the same effect (40_host_commands.md R140, 41_color_reducer.md R170, R171). -/
def Obligations.PixelReduced : Prop :=
  ∀ (r g b a : Byte) (s : State), s.phase = .load → s.err = false → s.li.toNat < s.n.toNat →
    s.li.toNat < s.conf.lfCap →
    ∃ t, exec (.pix r g b a) s = .next t ∧ exec (.reduce r g b a) s = .next t ∧
      t = { s with lf := t.lf, hist := t.hist, li := t.li, phase := t.phase } ∧
      t.lf.read s.li.toNat = reducePixel s.conf r g b a ∧
      (∀ j, j ≠ s.li.toNat → t.lf.read j = s.lf.read j) ∧
      t.hist.read (reducePixel s.conf r g b a).toNat = s.hist.read (reducePixel s.conf r g b a).toNat + 1 ∧
      (∀ v, v ≠ (reducePixel s.conf r g b a).toNat → t.hist.read v = s.hist.read v) ∧
      t.li.toNat = s.li.toNat + 1 ∧
      (t.li.toNat < s.n.toNat → t.phase = .load) ∧
      (t.li.toNat = s.n.toNat → t.phase = if s.cfg.photo then .cdf else .binarize)

/-- Compositing and luma are the exact integers of their formulas, nothing lost in narrowing
(41_color_reducer.md R161, R164). -/
def Obligations.CompositeAndLumaExact : Prop :=
  (∀ c a : Byte, (comp c a).toNat = (255 - a.toNat) + a.toNat * c.toNat / 255) ∧
  (∀ r g b : Byte, (luma r g b).toNat = (55 * r.toNat + 182 * g.toNat + 18 * b.toNat) / 255)

/-- Every entry of GAMMA is `round(255*(c/255)^2.2)`: with `g` the entry, `g - 1/2 <= 255*(c/255)^2.2 < g + 1/2`,
raised to the fifth power to stand in whole numbers (41_color_reducer.md R162, R163). -/
def Obligations.GammaIsItsFormula : Prop :=
  ∀ c : Byte,
    (2 * (gamma c).toNat - 1) ^ 5 * 255 ^ 11 ≤ (2 * 255) ^ 5 * c.toNat ^ 11 ∧
      (2 * 255) ^ 5 * c.toNat ^ 11 < (2 * (gamma c).toNat + 1) ^ 5 * 255 ^ 11

/-- An opaque pixel is its channels' luma through the tables; a fully transparent one is white
(41_color_reducer.md R168). -/
def Obligations.OpaqueAndTransparentPixels : Prop :=
  ∀ (c : Config) (r g b : Byte), c.Wf →
    reducePixel c r g b 255 = c.lightness (luma (gamma r) (gamma g) (gamma b)) ∧
    reducePixel c r g b 0 = 255 ∧
    reducePixel c r r r 255 = c.lightness (gamma r)

/-- Lightness does not fall when a channel rises (41_color_reducer.md R168). -/
def Obligations.ReduceMonotone : Prop :=
  ∀ (c : Config) (r g b r' g' b' a : Byte), c.Wf →
    r.toNat ≤ r'.toNat → g.toNat ≤ g'.toNat → b.toNat ≤ b'.toNat →
    (reducePixel c r g b a).toNat ≤ (reducePixel c r' g' b' a).toNat

/-! ToneMapper. -/

/-- CDF: each counter becomes the sum of the counters up to it (on 32 bits), cells past 255 and everything
else stay; and if the counters counted the image's `N` pixels, counter `v` is then the number of pixels of
lightness at most `v` (42_tone_mapper.md R181). -/
def Obligations.CdfCumulates : Prop :=
  ∀ s : State, ∃ t, exec .cdf s = .next t ∧ t = { s with hist := t.hist, histMode := .cdf, phase := .remap } ∧
    (∀ v, v < 256 →
      (t.hist.read v).toNat = ((List.range (v + 1)).map fun u => (s.hist.read u).toNat).sum % 2 ^ 32) ∧
    (∀ v, 256 ≤ v → t.hist.read v = s.hist.read v) ∧
    ((∀ v : Byte, (s.hist.read v.toNat).toNat = (List.range s.n.toNat).countP fun i => s.lf.read i == v) →
      ∀ v : Byte, (t.hist.read v.toNat).toNat =
        (List.range s.n.toNat).countP fun i => (s.lf.read i).toNat ≤ v.toNat)

/-- REMAP: every pixel becomes `255*cdf[v]/N`, the threshold becomes `t' = 255*cdf[t]/N` in EFF_THRESH, and
nothing else changes (42_tone_mapper.md R183, R185). -/
def Obligations.RemapEqualizes : Prop :=
  ∀ s : State, 0 < s.n.toNat → s.n.toNat ≤ s.conf.lfCap → (∀ v, v < 256 → (s.hist.read v).toNat ≤ s.n.toNat) →
    ∃ t, exec .remap s = .next t ∧ t = { s with lf := t.lf, effThr := t.effThr, phase := .dither } ∧
      (∀ i, i < s.n.toNat →
        (t.lf.read i).toNat = 255 * (s.hist.read (s.lf.read i).toNat).toNat / s.n.toNat) ∧
      (∀ i, s.n.toNat ≤ i → t.lf.read i = s.lf.read i) ∧
      t.effThr.toNat = 255 * (s.hist.read s.cfg.thr.toNat).toNat / s.n.toNat

/-- After REMAP of a non-decreasing CDF, a pixel at or below the configured threshold is at or below the
remapped one, a pixel above is at or above it, and pixels keep their order (42_tone_mapper.md R183, R186). -/
def Obligations.RemapKeepsOrder : Prop :=
  ∀ s t : State, exec .remap s = .next t →
    (∀ v, v < 256 → (s.hist.read v).toNat ≤ s.n.toNat) →
    (∀ u v, u ≤ v → v < 256 → (s.hist.read u).toNat ≤ (s.hist.read v).toNat) →
    ∀ i j, i < s.n.toNat → j < s.n.toNat →
      ((s.lf.read i).toNat ≤ s.cfg.thr.toNat → (t.lf.read i).toNat ≤ t.effThr.toNat) ∧
      (s.cfg.thr.toNat < (s.lf.read i).toNat → t.effThr.toNat ≤ (t.lf.read i).toNat) ∧
      ((s.lf.read i).toNat ≤ (s.lf.read j).toNat → (t.lf.read i).toNat ≤ (t.lf.read j).toNat)

/-! Ditherer. -/

/-- One pixel of the pass at `(x, y)`: it becomes 0 or 255; each of the six forward neighbours that is in the
image gets the truncated error, clamped; every other cell stays (43_ditherer.md R201 to R204). -/
def Obligations.DitherPixelEffect : Prop :=
  ∀ (w h x y : Nat) (thr : Byte) (m : Memory), x < w → y < h →
    let o := m.read (y * w + x)
    let n : Byte := if o.toNat ≤ thr.toNat then 0 else 255
    let e : Int := Int.tdiv (o.toNat - n.toNat) 8
    let m' := ditherPixel w h thr m (x, y)
    (∀ X Y, X < w → Y < h →
      (X = x ∧ Y = y → m'.read (Y * w + X) = n) ∧
      (((X = x + 1 ∨ X = x + 2) ∧ Y = y) ∨ ((X + 1 = x ∨ X = x ∨ X = x + 1) ∧ Y = y + 1) ∨
          (X = x ∧ Y = y + 2) →
        ((m'.read (Y * w + X)).toNat : Int) = min 255 (max 0 ((m.read (Y * w + X)).toNat + e))) ∧
      (¬ (X = x ∧ Y = y) →
        ¬ (((X = x + 1 ∨ X = x + 2) ∧ Y = y) ∨ ((X + 1 = x ∨ X = x ∨ X = x + 1) ∧ Y = y + 1) ∨
          (X = x ∧ Y = y + 2)) →
        m'.read (Y * w + X) = m.read (Y * w + X))) ∧
    ∀ j, w * h ≤ j → m'.read j = m.read j

/-- The pass is sequential in row-major order: the final value of pixel `i` is the comparison of the value that
the pixels before it left there, and no later pixel touches it (43_ditherer.md R201, R203, R205). -/
def Obligations.DitherSequential : Prop :=
  ∀ (w h : Nat) (thr : Byte) (m : Memory) (i : Nat), i < w * h →
    (scanOrder w h)[i]? = some (i % w, i / w) ∧
    (ditherAll w h thr m).read i =
      if ((((scanOrder w h).take i).foldl (ditherPixel w h thr) m).read i).toNat ≤ thr.toNat then 0 else 255

/-- DITHER runs the pass on the image with EFF_THRESH, leaves every pixel 0 or 255 and every other cell as it
was, and enters PACK (43_ditherer.md R201, R206). -/
def Obligations.DitherRuns : Prop :=
  ∀ s : State, s.imgW.toNat * s.imgH.toNat ≤ s.conf.lfCap →
    ∃ t, exec .dither s = .next t ∧ t = { s with lf := t.lf, phase := .pack } ∧
      t.lf = ditherAll s.imgW.toNat s.imgH.toNat s.effThr s.lf ∧
      (∀ i, i < s.imgW.toNat * s.imgH.toNat → t.lf.read i = 0 ∨ t.lf.read i = 255) ∧
      ∀ i, s.imgW.toNat * s.imgH.toNat ≤ i → t.lf.read i = s.lf.read i

/-! Binarizer. -/

/-- BINARIZE compares every pixel with the configured threshold, which becomes EFF_THRESH (44_binarizer.md R221). -/
def Obligations.BinarizeMarks : Prop :=
  ∀ s : State, s.n.toNat ≤ s.conf.lfCap →
    ∃ t, exec .binarize s = .next t ∧ t = { s with lf := t.lf, effThr := s.cfg.thr, phase := .pack } ∧
      (∀ i, i < s.n.toNat → t.lf.read i = if (s.lf.read i).toNat ≤ s.cfg.thr.toNat then 0 else 255) ∧
      ∀ i, s.n.toNat ≤ i → t.lf.read i = s.lf.read i

/-! BitPacker and geometry. -/

/-- PACK of an admitted image: the dot of column `x` of row `y` is set exactly when `x` is a column of the image
and the pixel that lands there is marked; padding columns are unset, the bytes past the image stay
(45_bit_packer.md R232 to R235, R238; the encoder's place, `pos`, is the model's, log 10). -/
def Obligations.PackPlacesEveryDot : Prop :=
  ∀ s : State, s.Admitted →
    ∃ t, exec .pack s = .next t ∧ t = { s with canvas := t.canvas, phase := .emit, pos := .start } ∧
      (∀ x y, x < s.canvasW.toNat → y < s.imgH.toNat →
        ((t.canvas.read (y * s.stride.toNat + x / 8)).getLsbD (7 - x % 8) = true ↔
          x < s.imgW.toNat ∧
            s.lf.read (if s.cfg.rotate then s.n.toNat - 1 - (y * s.imgW.toNat + x)
              else y * s.imgW.toNat + x) = 0)) ∧
      ∀ j, s.stride.toNat * s.imgH.toNat ≤ j → t.canvas.read j = s.canvas.read j

/-- Rotation sends the pixel at `(x, y)` to `(w-1-x, h-1-y)` (45_bit_packer.md R233). -/
def Obligations.RotationIsHalfTurn : Prop :=
  ∀ w h x y : Nat, x < w → y < h →
    packIndex false (w * h) (y * w + x) = y * w + x ∧
    packIndex true (w * h) (y * w + x) % w = w - 1 - x ∧
    packIndex true (w * h) (y * w + x) / w = h - 1 - y

/-- Alignment resolution and the offset (45_bit_packer.md R236, R237). -/
def Obligations.OffsetOfAlignment : Prop :=
  ∀ (rotate : Bool) (cw : Nat), cw % 8 = 0 → 8 ≤ cw → cw ≤ 512 →
    offsetDots .left rotate cw = 0 ∧ offsetDots .right rotate cw = 512 - cw ∧
    offsetDots .center rotate cw = (512 - cw) / 2 - (512 - cw) / 2 % 8 ∧
    offsetDots .unset rotate cw = (if rotate then 512 - cw else 0) ∧
    ∀ al, offsetDots al rotate cw % 8 = 0 ∧ offsetDots al rotate cw ≤ 504

/-- The canvas width: a multiple of 8, from 8 to 512, with 0 to 7 padding columns (45_bit_packer.md R231). -/
def Obligations.CanvasWidthPads : Prop :=
  ∀ w : Nat, 1 ≤ w → w ≤ 512 →
    canvasWidth w % 8 = 0 ∧ 8 ≤ canvasWidth w ∧ canvasWidth w ≤ 512 ∧ w ≤ canvasWidth w ∧
      canvasWidth w - w ≤ 7

/-! FrameEncoder. -/

/-- Inside a frame, each of the three emission operations offers the next byte: accepted, and not the last
(`LastByteEndsFrame`; the first byte is in `FirstByteOffered`), it joins the stream;
on a stall nothing changes; on a failure the byte is not delivered and SinkWriteFailure is recorded
(46_frame_encoder.md R261, 20_memory.md R75, 60_exceptions.md R296; the list of answers and the encoder's place
are the model's, log 2, 10). -/
def Obligations.OneByteOffered : Prop :=
  ∀ (op : Instr) (s : State) (kind : FrameKind) (b : Byte) (rest : List Byte) (answers : List SinkAnswer),
    op ∈ [Instr.initEmit, .emit, .cutEmit] → s.pos = .inside kind (b :: rest) →
      (s.sink = .accept :: answers → rest ≠ [] →
        exec op s = .next { s with sink := answers, out := s.out ++ [b], pos := .inside kind rest }) ∧
      (s.sink = .stall :: answers → exec op s = .next { s with sink := answers }) ∧
      (s.sink = .fail :: answers → s.err = false →
        exec op s = .next (halted .sinkWriteFailure { s with sink := answers }))

/-- When the last byte of a frame is accepted: INIT sets JOB_ACTIVE and enters READY; MARGIN is followed by
STORE and STORE by FLUSH; FLUSH advances `row0` by `k` and ends the image at `img_h`, else starts the next
chunk; CUT clears JOB_ACTIVE and enters IDLE (46_frame_encoder.md R251, R254, R259, R260, R262; the encoder's
place is the model's, log 10). -/
def Obligations.LastByteEndsFrame : Prop :=
  ∀ (op : Instr) (s : State) (kind : FrameKind) (b : Byte) (answers : List SinkAnswer),
    op ∈ [Instr.initEmit, .emit, .cutEmit] → s.pos = .inside kind [b] → s.sink = .accept :: answers →
    s.conf.Wf →
    let u := { s with sink := answers, out := s.out ++ [b] }
    (kind = .init → exec op s = .next { u with jobActive := true, phase := .ready, pos := .start }) ∧
    (kind = .margin → exec op s = .next { u with pos := .before .store }) ∧
    (kind = .store → exec op s = .next { u with pos := .before .flush }) ∧
    (kind = .flush → s.row0.toNat + s.k.toNat = s.imgH.toNat →
      exec op s = .next { u with row0 := s.imgH, phase := .ready, pos := .start }) ∧
    (kind = .flush → s.row0.toNat + s.k.toNat < s.imgH.toNat →
      ∃ t, exec op s = .next t ∧ t = { u with row0 := t.row0, k := t.k, pos := t.pos } ∧
        t.row0.toNat = s.row0.toNat + s.k.toNat ∧
        t.k.toNat = min s.conf.gs8lMaxY (s.imgH.toNat - (s.row0.toNat + s.k.toNat)) ∧
        t.pos = .before (if s.offset = 0 then .store else .margin)) ∧
    (kind = .cut → exec op s = .next { u with jobActive := false, phase := .idle, pos := .start })

/-- Where a frame begins, the phase's operation is the frame's own operation, with the operands of the latched
geometry; at the start of EMIT, after `row0` is 0 and the first chunk's height is taken
(46_frame_encoder.md R251, R254 to R258, R262; 30_encoding.md R94; the places are the model's, log 9, 10). -/
def Obligations.PhasesBeginFrames : Prop :=
  (∀ s : State, s.pos = .start → exec .initEmit s = exec .frameInit s ∧ exec .cutEmit s = exec .frameCut s) ∧
  (∀ s : State, s.pos = .before .margin → exec .emit s = exec (.frameMargin (s.offset.setWidth 16)) s) ∧
  (∀ s : State, s.pos = .before .flush → exec .emit s = exec .frameFlush s) ∧
  (∀ s : State, s.pos = .before .store → s.Admitted → s.row0.toNat + s.k.toNat ≤ s.imgH.toNat →
    exec .emit s = exec (.frameStore (s.canvasW.setWidth 16) (s.k.setWidth 16)
      (s.canvas.slice (s.row0.toNat * s.stride.toNat) (s.k.toNat * s.stride.toNat))) s) ∧
  (∀ s : State, s.pos = .start →
    exec .emit s = exec .emit { s with
      row0 := 0
      k := BitVec.ofNat 11 (min s.conf.gs8lMaxY s.imgH.toNat)
      pos := .before (if s.offset = 0 then .store else .margin) })

/-- Each frame operation, and the frame's bytes: its first byte accepted, one is sent and the rest are to follow;
on a stall all are to follow; on a failure none is delivered and SinkWriteFailure is recorded (30_encoding.md R101
to R106, 46_frame_encoder.md R261, 60_exceptions.md R296; that a frame is an operation, the list of answers and the
sending place are the model's, log 2, 9, 10). -/
def Obligations.FrameOperationsSend : Prop :=
  ∀ (s : State) (answers : List SinkAnswer) (offset canvasW k : BitVec 16) (payload : List Byte)
    (op : Instr) (kind : FrameKind) (b : Byte) (rest : List Byte),
    (op, kind, b :: rest) ∈ frameTable s.conf offset canvasW k payload →
      (s.sink = .accept :: answers →
        exec op s = .next { s with sink := answers, out := s.out ++ [b], pos := .inside kind rest }) ∧
      (s.sink = .stall :: answers →
        exec op s = .next { s with sink := answers, pos := .inside kind (b :: rest) }) ∧
      (s.sink = .fail :: answers → s.err = false →
        exec op s = .next (halted .sinkWriteFailure { s with sink := answers }))

/-- The header's three little-endian fields are exact for every chunk the machine can send: `p`, which is the
number of bytes of the frame after byte 6, `canvas_w` and `k` (46_frame_encoder.md R255, 30_encoding.md R103). -/
def Obligations.StoreHeaderFieldsExact : Prop :=
  ∀ (c : Config) (cw k : Nat) (payload : List Byte), c.Wf → cw % 8 = 0 → cw ≤ 512 → k ≤ c.gs8lMaxY →
    payload.length = k * (cw / 8) →
    let f := storeFrame c cw k payload
    let field := fun j : Nat => (f.getD j 0).toNat + 256 * (f.getD (j + 1) 0).toNat
    field 3 = 10 + k * (cw / 8) ∧ field 13 = cw ∧ field 15 = k ∧ f.length = field 3 + 7 ∧ f.drop 17 = payload

/-- With a sink that accepts, the INIT and CUT phases send their frames and nothing else, in two and four steps
(46_frame_encoder.md R251, R262; 30_encoding.md R101, R106; the lists of turns and of answers and the encoder's
place are the model's, log 1, 2, 10). -/
def Obligations.JobBracketsSent : Prop :=
  ∀ (s : State) (answers : List SinkAnswer), EngineAlone s → s.pos = .start →
    (s.phase = .init → s.sink = List.replicate 2 .accept ++ answers →
      Sys2Proof.core.run 2 s = .next { s with
        sink := answers, out := s.out ++ s.conf.initBytes.toList, jobActive := true, phase := .ready }) ∧
    (s.phase = .cut → s.sink = List.replicate 4 .accept ++ answers →
      Sys2Proof.core.run 4 s = .next { s with
        sink := answers, out := s.out ++ s.conf.cutBytes.toList, jobActive := false, phase := .idle })

/-- With a sink that accepts, EMIT sends exactly the stream of the admitted image, chunk by chunk, and enters
READY after its last byte (46_frame_encoder.md R252 to R260, 30_encoding.md R107; the lists of turns and of
answers and the encoder's place are the model's, log 1, 2, 10). -/
def Obligations.EmitSendsWholeImage : Prop :=
  ∀ (s : State) (answers : List SinkAnswer), s.conf.Wf → s.Admitted → EngineAlone s → s.phase = .emit →
    s.pos = .start → s.sink = List.replicate (imageBytes s).length .accept ++ answers →
    ∃ t, Sys2Proof.core.run (imageBytes s).length s = .next t ∧
      t = { s with
        sink := answers, out := s.out ++ imageBytes s, row0 := s.imgH, k := t.k, phase := .ready }

/-- The byte count of an image (46_frame_encoder.md R264). -/
def Obligations.ImageByteCount : Prop :=
  ∀ (c : Config) (offset cw stride h : Nat) (canvas : Memory), c.Wf →
    (imageStream c offset cw stride h canvas).length =
      chunkCount c.gs8lMaxY h * ((if offset ≠ 0 then 4 else 0) + 17 + 7) + h * stride

/-! The whole machine. -/

/-- The invariant holds after reset (10_state.md R54), with the reference parameters that State.reset holds (the
model's, log 4, PRESUMED) and the encoder's place at the start (the model's, log 10). -/
def Obligations.ResetMeetsInvariant : Prop := State.reset.Inv

/-- Every step keeps the invariant, from every state that has it (20_memory.md R80; 10_state.md R32, R39, R44,
R45, R48, R51; 60_exceptions.md R292). -/
def Obligations.StepKeepsInvariant : Prop :=
  ∀ s t : State, s.Inv → step s = .next t → t.Inv

/-- From a state of the invariant no step faults: no buffer index is out of range and nothing is divided by
zero (20_memory.md R80, 60_exceptions.md R299). -/
def Obligations.NoStepFaults : Prop :=
  ∀ (s : State) (f : Fault), s.Inv → step s ≠ .fault f

/-- In count mode each counter is the number of accepted pixels of its lightness, through every step
(10_state.md R48, 41_color_reducer.md R171). -/
def Obligations.StepKeepsHistogramCounts : Prop :=
  ∀ s t : State, s.Inv → s.HistCounts → step s = .next t → t.HistCounts

/-- Once the passes are done every pixel of the image is 0 or 255, until the image is sent (43_ditherer.md
R206, 44_binarizer.md R221). -/
def Obligations.StepKeepsBinaryField : Prop :=
  ∀ s t : State, s.Inv → s.BinaryField → step s = .next t → t.BinaryField

/-- An error stays: no step but a reset changes STATUS or the stream, or leaves HALTED (60_exceptions.md R293,
R302). -/
def Obligations.ErrorIsSticky : Prop :=
  ∀ s t : State, s.Inv → s.err = true → step s = .next t →
    (t.phase = .halted ∧ statusWord t = statusWord s ∧ t.errcode = s.errcode ∧ t.out = s.out ∧
      t.effThr = s.effThr ∧ t.cfg = s.cfg) ∨
    ∃ u, t = resetEngine u

/-- The stream only grows, by at most a byte a step and only in INIT, EMIT and CUT; the parameters never change
(20_memory.md R76, 10_state.md R54). -/
def Obligations.StreamOnlyGrows : Prop :=
  ∀ s t : State, step s = .next t →
    t.conf = s.conf ∧
    ∃ bytes, bytes.length ≤ 1 ∧ t.out = s.out ++ bytes ∧
      (s.Inv → bytes ≠ [] → s.phase = .init ∨ s.phase = .emit ∨ s.phase = .cut)

/-- The phases follow one another only as the rules allow, errors and resets apart (10_state.md R52). -/
def Obligations.PhasesInOrder : Prop :=
  ∀ s t : State, s.Inv → step s = .next t →
    t.phase ∈ nextPhases s.cfg.photo s.cfg.cut s.phase ∨ (t.phase = .halted ∧ t.err = true) ∨
      ∃ u, t = resetEngine u

/-- Resets apart: the configuration latch changes only as JOB_START takes IDLE to INIT, the geometry latch only
in READY, EFF_THRESH only in REMAP and BINARIZE, and an error leaves JOB_ACTIVE as it is (10_state.md R41, R42,
R43, R45; 70_reset_and_hazards.md R342). -/
def Obligations.LatchesHold : Prop :=
  ∀ s t : State, s.Inv → step s = .next t →
    (∃ u, t = resetEngine u) ∨
    ((t.cfg = s.cfg ∨ s.phase = .idle ∧ t.phase = .init) ∧
      ((t.imgW = s.imgW ∧ t.imgH = s.imgH ∧ t.n = s.n ∧ t.canvasW = s.canvasW ∧ t.stride = s.stride ∧
        t.offset = s.offset) ∨ s.phase = .ready) ∧
      (t.effThr = s.effThr ∨ s.phase = .remap ∨ s.phase = .binarize) ∧
      (t.phase = .halted → t.jobActive = s.jobActive))

/-! FrameEncoder, where a frame begins (beside `OneByteOffered`, `PhasesBeginFrames` and `FrameOperationsSend`). -/

/-- Each emission operation at the place where a frame begins offers that frame's first byte: accepted, it joins the
stream and the rest follows; on a stall the whole frame stays to be sent; on a failure no byte is delivered and
SinkWriteFailure is recorded (46_frame_encoder.md R261, 20_memory.md R75, 60_exceptions.md R296; a payload past
CANVAS apart, 20_memory.md R80; the list of answers and the places are the model's, log 2, 10). -/
def Obligations.FirstByteOffered : Prop :=
  ∀ (op : Instr) (s u : State) (kind : FrameKind) (answers : List SinkAnswer), Begins op s kind u →
    (kind = .store → (u.row0.toNat + u.k.toNat) * u.stride.toNat ≤ u.conf.canvasCap) →
    ∃ b rest, rest ≠ [] ∧ frameBytes kind u = b :: rest ∧
      (s.sink = .accept :: answers →
        exec op s = .next { u with sink := answers, out := s.out ++ [b], pos := .inside kind rest }) ∧
      (s.sink = .stall :: answers →
        exec op s = .next { u with sink := answers, pos := .inside kind (b :: rest) }) ∧
      (s.sink = .fail :: answers → s.err = false →
        exec op s = .next (halted .sinkWriteFailure { u with sink := answers }))
end

