-- ==== Sys2Proof/Laws/Buffers.lean ====
section
/-! SUPPORT. What reading and writing a buffer do, and that every buffer operation keeps the canonical
form. -/

namespace Sys2Proof.Machine

variable {w : Nat}

theorem lookup_insertCell_same (i : Nat) (v : BitVec w) (cs : List (Nat × BitVec w)) :
    (insertCell i v cs).lookup i = some v := by
  induction cs with
  | nil => simp [insertCell]
  | cons c rest ih =>
    obtain ⟨j, u⟩ := c
    simp only [insertCell]
    split
    · simp
    · split
      · simp
      · simp [List.lookup, show (i == j) = false by simp; omega, ih]

theorem lookup_insertCell_other {i j : Nat} (h : j ≠ i) (v : BitVec w) (cs : List (Nat × BitVec w)) :
    (insertCell i v cs).lookup j = cs.lookup j := by
  have hji : (j == i) = false := by simp [h]
  induction cs with
  | nil => simp [insertCell, List.lookup, hji]
  | cons c rest ih =>
    obtain ⟨k, u⟩ := c
    simp only [insertCell]
    split
    · simp [List.lookup, hji]
    · split
      · subst_vars; simp [List.lookup, hji]
      · simp [List.lookup, ih]

/-- A read after a write to the same cell gives the value written. -/
@[simp] theorem Buf.read_write_same (b : Buf w) (i : Nat) (v : BitVec w) : (b.write i v).read i = v := by
  simp [Buf.read, Buf.write, lookup_insertCell_same]

/-- A write leaves every other cell alone. -/
theorem Buf.read_write_other (b : Buf w) {i j : Nat} (h : j ≠ i) (v : BitVec w) :
    (b.write i v).read j = b.read j := by
  simp [Buf.read, Buf.write, lookup_insertCell_other h]

theorem Buf.read_write (b : Buf w) (i j : Nat) (v : BitVec w) :
    (b.write i v).read j = if j = i then v else b.read j := by
  split
  · subst_vars; simp
  · exact b.read_write_other ‹_› v

@[simp] theorem Buf.write_seed (b : Buf w) (i : Nat) (v : BitVec w) : (b.write i v).seed = b.seed := rfl
@[simp] theorem Buf.update_seed (b : Buf w) (n : Nat) (f : BitVec w → BitVec w) : (b.update n f).seed = b.seed := rfl

theorem lookup_map_range (f : Nat → BitVec w) (n j : Nat) :
    ((List.range n).map fun i => (i, f i)).lookup j = if j < n then some (f j) else none := by
  induction n with
  | zero => simp
  | succ n ih =>
    rw [List.range_succ, List.map_append, List.lookup_append, ih]
    by_cases h : j < n
    · simp [h, Nat.lt_succ_of_lt h]
    · by_cases h' : j = n
      · subst h'; simp
      · simp [h, List.lookup, show (j == n) = false by simp [h'], show ¬ j < n + 1 by omega]

theorem lookup_filter_ge (cs : List (Nat × BitVec w)) {n j : Nat} (h : n ≤ j) :
    (cs.filter fun c => n ≤ c.1).lookup j = cs.lookup j := by
  induction cs with
  | nil => rfl
  | cons c rest ih =>
    obtain ⟨k, u⟩ := c
    by_cases hk : n ≤ k
    · simp [hk, List.lookup, ih]
    · simp [hk, List.lookup, ih, show (j == k) = false by simp; omega]

/-- What a pass over the first `n` cells leaves in each cell. -/
theorem Buf.read_update (b : Buf w) (n : Nat) (f : BitVec w → BitVec w) (j : Nat) :
    (b.update n f).read j = if j < n then f (b.read j) else b.read j := by
  simp only [Buf.read, Buf.update, List.lookup_append]
  rw [lookup_map_range (fun i => f ((List.lookup i b.cells).getD (Config.freeCell w b.seed i)))]
  by_cases h : j < n
  · simp [h]
  · simp [h, lookup_filter_ge b.cells (Nat.le_of_not_lt h)]

theorem Buf.read_zero (b : Buf w) (n j : Nat) : (b.zero n).read j = if j < n then 0 else b.read j :=
  b.read_update n _ j

@[simp] theorem Buf.slice_length (b : Buf w) (start count : Nat) : (b.slice start count).length = count := by
  simp [Buf.slice]

theorem Buf.slice_getElem (b : Buf w) (start count j : Nat) (h : j < (b.slice start count).length) :
    (b.slice start count)[j] = b.read (start + j) := by
  simp [Buf.slice]

theorem insertCell_bound {i k : Nat} (v : BitVec w) (cs : List (Nat × BitVec w)) (hk : k < i)
    (h : ∀ c ∈ cs, k < c.1) : ∀ c ∈ insertCell i v cs, k < c.1 := by
  induction cs with
  | nil => simp [insertCell, hk]
  | cons c rest ih =>
    obtain ⟨j, u⟩ := c
    simp only [List.mem_cons, forall_eq_or_imp] at h
    simp only [insertCell]
    split
    · simp only [List.mem_cons, forall_eq_or_imp]; exact ⟨hk, h.1, h.2⟩
    · split
      · simp only [List.mem_cons, forall_eq_or_imp]; exact ⟨hk, h.2⟩
      · simp only [List.mem_cons, forall_eq_or_imp]; exact ⟨h.1, ih h.2⟩

theorem Buf.write_wf {b : Buf w} (h : b.wf) (i : Nat) (v : BitVec w) : (b.write i v).wf := by
  have go : ∀ cs : List (Nat × BitVec w), cs.Pairwise (fun x y => x.1 < y.1) →
      (insertCell i v cs).Pairwise (fun x y => x.1 < y.1) := by
    intro cs
    induction cs with
    | nil => intro _; simp [insertCell]
    | cons c rest ih =>
      obtain ⟨j, u⟩ := c
      intro hp
      obtain ⟨hj, hr⟩ := List.pairwise_cons.mp hp
      simp only [insertCell]
      split
      · next hlt =>
        refine List.pairwise_cons.mpr ⟨?_, hp⟩
        intro c hc
        rcases List.mem_cons.mp hc with rfl | hc
        · exact hlt
        · exact Nat.lt_trans hlt (hj c hc)
      · split
        · subst_vars; exact List.pairwise_cons.mpr ⟨hj, hr⟩
        · exact List.pairwise_cons.mpr ⟨insertCell_bound v rest (by omega) hj, ih hr⟩
  exact go b.cells h

theorem Buf.update_wf {b : Buf w} (h : b.wf) (n : Nat) (f : BitVec w → BitVec w) : (b.update n f).wf := by
  refine List.pairwise_append.mpr ⟨?_, List.Pairwise.filter _ h, ?_⟩
  · exact List.pairwise_map.mpr (List.Pairwise.imp (fun h => h) List.pairwise_lt_range)
  · intro x hx y hy
    obtain ⟨i, hi, rfl⟩ := List.mem_map.mp hx
    have := List.mem_range.mp hi
    have := (List.mem_filter.mp hy).2
    simp only [decide_eq_true_eq] at this
    show i < y.1
    omega

theorem Buf.zero_wf {b : Buf w} (h : b.wf) (n : Nat) : (b.zero n).wf := b.update_wf h n _

/-- A pass that keeps the canonical form at each element keeps it. -/
theorem foldl_wf {α : Type} (f : Buf w → α → Buf w) (hf : ∀ b a, b.wf → (f b a).wf) (l : List α) (b : Buf w)
    (h : b.wf) : (l.foldl f b).wf := by
  induction l generalizing b with
  | nil => exact h
  | cons a l ih => exact ih _ (hf b a h)

theorem prefixSums_wf {h : Buf 32} (hw : h.wf) : (prefixSums h).wf :=
  foldl_wf _ (fun _ _ hb => Buf.write_wf hb _ _) _ _ hw

theorem diffuseTo_wf (iw ih x y : Nat) (e : Int) (m : Memory) (d : Int × Nat) (h : m.wf) :
    (diffuseTo iw ih x y e m d).wf := by
  unfold diffuseTo; split
  · exact Buf.write_wf h _ _
  · exact h

theorem ditherAll_wf (iw ih : Nat) (t : Byte) {m : Memory} (h : m.wf) : (ditherAll iw ih t m).wf :=
  foldl_wf _ (fun _ _ hb => foldl_wf _ (diffuseTo_wf _ _ _ _ _) _ _ (Buf.write_wf hb _ _)) _ _ h

theorem packAll_wf (rotate : Bool) (n iw ih cw st : Nat) (lf : Memory) {m : Memory} (h : m.wf) :
    (packAll rotate n iw ih cw st lf m).wf := by
  refine foldl_wf _ (fun _ i hb => ?_) _ _ (Buf.zero_wf h _)
  unfold packPixel; split
  · exact Buf.write_wf hb _ _
  · exact hb

end Sys2Proof.Machine
end

