-- ==== Sys2Proof/Laws/Datapath.lean ====
section
/-! SUPPORT. What the datapath's operations do to one cell: tables, prefix sums, error diffusion, packing. -/

namespace Sys2Proof.Machine

/-! Indices (00_scope.md R19). -/

theorem index_inj {w X Y X' Y' : Nat} (h : X < w) (h' : X' < w) (e : Y * w + X = Y' * w + X') :
    X = X' ∧ Y = Y' := by
  have hx : X = X' := by
    have := congrArg (· % w) e
    simpa [Nat.mul_add_mod_self_right, Nat.mod_eq_of_lt, h, h'] using this
  subst hx
  have : Y * w = Y' * w := by omega
  exact ⟨rfl, Nat.eq_of_mul_eq_mul_right (by omega) this⟩

theorem index_lt {w h X Y : Nat} (hX : X < w) (hY : Y < h) : Y * w + X < w * h := by
  have : (Y + 1) * w ≤ h * w := Nat.mul_le_mul_right _ hY
  rw [Nat.mul_comm w h, Nat.add_mul] at *
  omega

/-! Tables. -/

/-- A table that does not fall from one entry to the next does not fall at all. -/
theorem table_mono (t : Vector Byte 256) (h : ∀ i : Fin 255, (t[i.val]).toNat ≤ (t[i.val + 1]).toNat)
    (a b : Byte) (hab : a.toNat ≤ b.toNat) : (t[a.toNat]'a.isLt).toNat ≤ (t[b.toNat]'b.isLt).toNat := by
  have key : ∀ d i (_ : i + d < 256), (t[i]).toNat ≤ (t[i + d]).toNat := by
    intro d
    induction d with
    | zero => intro i _; exact Nat.le_refl _
    | succ d ih =>
      intro i _
      exact Nat.le_trans (ih i (by omega)) (h ⟨i + d, by omega⟩)
  have := key (b.toNat - a.toNat) a.toNat (by omega)
  simpa [Nat.add_sub_cancel' hab] using this

theorem lightness_mono {c : Config} (hc : c.Wf) (a b : Byte) (h : a.toNat ≤ b.toNat) :
    (c.lightness a).toNat ≤ (c.lightness b).toNat := table_mono _ hc.ltable_mono a b h

/-! ToneMapper. -/

/-- The first `n` steps of the prefix sum. -/
theorem prefix_steps (h : Buf 32) (n : Nat) :
    let h' := (List.range n).foldl (fun h v => h.write (v + 1) (h.read v + h.read (v + 1))) h
    (∀ v, v ≤ n → (h'.read v).toNat = ((List.range (v + 1)).map fun u => (h.read u).toNat).sum % 2 ^ 32) ∧
      ∀ v, n < v → h'.read v = h.read v := by
  induction n with
  | zero =>
    refine ⟨fun v hv => ?_, fun _ _ => rfl⟩
    obtain rfl : v = 0 := by omega
    have := (h.read 0).isLt
    simp
    omega
  | succ n ih =>
    rw [List.range_succ, List.foldl_append]
    simp only [List.foldl_cons, List.foldl_nil]
    obtain ⟨h1, h2⟩ := ih
    generalize (List.range n).foldl _ h = g at h1 h2 ⊢
    constructor
    · intro v hv
      rw [Buf.read_write]
      split
      · subst v
        rw [BitVec.toNat_add, h1 n (Nat.le_refl _), h2 (n + 1) (by omega), List.range_succ (n := n + 1),
          List.map_append, List.sum_append]
        simp
      · exact h1 v (by omega)
    · intro v hv
      rw [Buf.read_write, if_neg (by omega)]
      exact h2 v (by omega)

/-- Counting the values up to `v` is adding up the counts of each. -/
theorem countP_le_eq_sum (l : List Nat) (f : Nat → Byte) (v : Nat) :
    (l.countP fun i => decide ((f i).toNat ≤ v)) =
      ((List.range (v + 1)).map fun u => l.countP fun i => decide ((f i).toNat = u)).sum := by
  induction v with
  | zero => simp
  | succ v ih =>
    rw [List.range_succ, List.map_append, List.sum_append, ← ih]
    simp only [List.map_cons, List.map_nil, List.sum_cons, List.sum_nil, Nat.add_zero]
    clear ih
    induction l with
    | nil => rfl
    | cons a l ih =>
      simp only [List.countP_cons, ih]
      by_cases h1 : (f a).toNat ≤ v
      · simp [h1, show (f a).toNat ≤ v + 1 by omega, show (f a).toNat ≠ v + 1 by omega]
        omega
      · by_cases h2 : (f a).toNat = v + 1
        · simp [h2]
          omega
        · simp [h1, h2, show ¬ (f a).toNat ≤ v + 1 by omega]

theorem equalize_toNat (c : BitVec 32) (n : Nat) (h : c.toNat ≤ n) :
    (equalize c n).toNat = 255 * c.toNat / n := by
  have : 255 * c.toNat / n ≤ 255 := by
    apply Nat.div_le_of_le_mul
    rw [Nat.mul_comm]
    exact Nat.mul_le_mul_right _ h
  simp only [equalize, BitVec.toNat_ofNat]
  exact Nat.mod_eq_of_lt (by omega)

/-! Ditherer. -/

theorem addClamped_toNat (v : Byte) (e : Int) :
    ((addClamped v e).toNat : Int) = min 255 (max 0 (v.toNat + e)) := by
  simp only [addClamped, BitVec.toNat_ofNat]
  rw [Nat.mod_eq_of_lt (by omega)]
  omega

theorem neighbourIndex_eq_some {w h x y : Nat} {d : Int × Nat} {j : Nat} :
    neighbourIndex w h x y d = some j ↔
      ∃ X Y : Nat, X < w ∧ Y < h ∧ (X : Int) = x + d.1 ∧ Y = y + d.2 ∧ j = Y * w + X := by
  simp only [neighbourIndex]
  constructor
  · intro e
    split at e
    · simp only [Option.some.injEq] at e
      exact ⟨((x : Int) + d.1).toNat, y + d.2, by omega, by omega, by omega, rfl, e.symm⟩
    · cases e
  · rintro ⟨X, Y, hX, hY, e1, e2, rfl⟩
    rw [if_pos (by omega), ← e1, e2]
    simp

/-- Spreading the error over different neighbours: each gets it once, on the value it had. -/
theorem diffuse_foldl (w h x y : Nat) (e : Int) (ds : List (Int × Nat)) (hn : ds.Nodup) (m : Memory)
    (j : Nat) :
    (ds.foldl (diffuseTo w h x y e) m).read j =
      if ∃ d ∈ ds, neighbourIndex w h x y d = some j then addClamped (m.read j) e else m.read j := by
  induction ds generalizing m with
  | nil => simp
  | cons d ds ih =>
    obtain ⟨hd, hn⟩ := List.nodup_cons.mp hn
    rw [List.foldl_cons, ih hn]
    have hread : (diffuseTo w h x y e m d).read j =
        if neighbourIndex w h x y d = some j then addClamped (m.read j) e else m.read j := by
      unfold diffuseTo
      split
      · rename_i j' hj'
        rw [Buf.read_write]
        by_cases hjj : j = j'
        · subst hjj; simp [hj']
        · simp [hj', hjj, Ne.symm hjj]
      · rename_i hj'; simp [hj']
    by_cases h1 : neighbourIndex w h x y d = some j
    · have : ¬ ∃ d ∈ ds, neighbourIndex w h x y d = some j := by
        rintro ⟨d', hm, h2⟩
        obtain ⟨X, Y, hX, hY, e1, e2, rfl⟩ := neighbourIndex_eq_some.mp h1
        obtain ⟨X', Y', hX', hY', e1', e2', e3⟩ := neighbourIndex_eq_some.mp h2
        obtain ⟨rfl, rfl⟩ := index_inj hX hX' e3
        have : d = d' := by apply Prod.ext <;> omega
        exact hd (this ▸ hm)
      simp only [hread, h1, if_true]
      rw [if_neg this, if_pos ⟨d, by simp, h1⟩]
    · simp only [hread, h1, if_false, List.exists_mem_cons_iff, false_or]

/-- Which cells of the image are the forward neighbours of `(x, y)` (43_ditherer.md R203). -/
theorem neighbour_iff (w h x y X Y : Nat) (hX : X < w) (hY : Y < h) :
    (∃ d ∈ neighbourOffsets, neighbourIndex w h x y d = some (Y * w + X)) ↔
      ((X = x + 1 ∨ X = x + 2) ∧ Y = y) ∨ ((X + 1 = x ∨ X = x ∨ X = x + 1) ∧ Y = y + 1) ∨
        (X = x ∧ Y = y + 2) := by
  constructor
  · rintro ⟨d, hd, h1⟩
    obtain ⟨X', Y', hX', hY', e1', e2', e3⟩ := neighbourIndex_eq_some.mp h1
    obtain ⟨rfl, rfl⟩ := index_inj hX hX' e3
    simp [neighbourOffsets] at hd
    rcases hd with rfl | rfl | rfl | rfl | rfl | rfl <;> simp at e1' e2' <;> omega
  · intro hc
    have : ∃ d ∈ neighbourOffsets, (X : Int) = x + d.1 ∧ Y = y + d.2 := by
      simp [neighbourOffsets]
      omega
    obtain ⟨d, hd, e1, e2⟩ := this
    exact ⟨d, hd, neighbourIndex_eq_some.mpr ⟨X, Y, hX, hY, e1, e2, rfl⟩⟩

/-- A pixel's turn in the pass leaves every earlier cell and sets its own. -/
theorem ditherPixel_read_le (w h : Nat) (thr : Byte) (m : Memory) (x y : Nat) (hx : x < w) (j : Nat)
    (hj : j ≤ y * w + x) :
    (ditherPixel w h thr m (x, y)).read j =
      if j = y * w + x then binarizeByte thr (m.read j) else m.read j := by
  simp only [ditherPixel]
  rw [diffuse_foldl _ _ _ _ _ _ (by decide), if_neg, Buf.read_write]
  · split <;> simp_all
  · rintro ⟨d, hd, h1⟩
    obtain ⟨X', Y', hX', hY', e1', e2', rfl⟩ := neighbourIndex_eq_some.mp h1
    simp [neighbourOffsets] at hd
    rcases hd with rfl | rfl | rfl | rfl | rfl | rfl <;> simp at e1' e2' <;> subst e2'
    · omega
    · omega
    all_goals (rw [Nat.add_mul] at hj; omega)

/-- The scan order is the order of the logical indices. -/
theorem scanOrder_eq (w h : Nat) : scanOrder w h = (List.range (w * h)).map fun i => (i % w, i / w) := by
  unfold scanOrder
  induction h with
  | zero => simp
  | succ h ih =>
    rw [List.range_succ, List.flatMap_append, ih, Nat.mul_succ, List.range_add, List.map_append]
    congr 1
    simp only [List.flatMap_cons, List.flatMap_nil, List.append_nil, List.map_map]
    apply List.map_congr_left
    intro x hx
    have := List.mem_range.mp hx
    simp only [Function.comp]
    rw [Nat.mul_add_mod, Nat.mod_eq_of_lt this, Nat.mul_add_div (by omega), Nat.div_eq_of_lt this]
    simp

/-! BitPacker. -/

theorem columnMask_bit (x B : Nat) (hB : B < 8) : (columnMask x).getLsbD B = decide (B = 7 - x % 8) := by
  have h : ∀ r B : Fin 8, ((0x80#8 >>> r.val).getLsbD B.val) = decide (B.val = 7 - r.val) := by decide
  exact h ⟨x % 8, Nat.mod_lt _ (by decide)⟩ ⟨B, hB⟩

/-- Rows start on byte boundaries (45_bit_packer.md R234). -/
theorem canvasByte_eq (st x y : Nat) : canvasByte (st * 8) x y = y * st + x / 8 := by
  simp only [canvasByte]
  rw [← Nat.mul_assoc, Nat.mul_comm (y * st) 8, Nat.mul_add_div (by decide)]

/-- Which dots are set after packing the pixels of a list: those set before, and the marked pixels'. -/
theorem pack_foldl (rot : Bool) (n w cw : Nat) (lf : Memory) (l : List Nat) (m : Memory) (J B : Nat)
    (hB : B < 8) :
    ((l.foldl (packPixel rot n w cw lf) m).read J).getLsbD B = true ↔
      (m.read J).getLsbD B = true ∨
        ∃ i ∈ l, lf.read i = 0 ∧ J = canvasByte cw (packIndex rot n i % w) (packIndex rot n i / w) ∧
          B = 7 - packIndex rot n i % w % 8 := by
  induction l generalizing m with
  | nil => simp
  | cons a l ih =>
    have one : ((packPixel rot n w cw lf m a).read J).getLsbD B = true ↔
        (m.read J).getLsbD B = true ∨
          (lf.read a = 0 ∧ J = canvasByte cw (packIndex rot n a % w) (packIndex rot n a / w) ∧
            B = 7 - packIndex rot n a % w % 8) := by
      unfold packPixel
      split
      · rename_i h
        rw [Buf.read_write]
        split
        · rename_i hJ
          rw [BitVec.getLsbD_or, columnMask_bit _ _ hB]
          simp [h, hJ]
        · rename_i hJ
          simp [hJ]
      · rename_i h
        exact ⟨.inl, fun h' => h'.elim id fun h2 => absurd h2.1 h⟩
    rw [List.foldl_cons, ih, one]
    simp only [List.exists_mem_cons_iff, or_assoc]

end Sys2Proof.Machine
end

