-- ==== Sys2Proof/Laws/Encoding.lean ====
section
/-! SUPPORT. The lanes and fields of the encoded words, and what the decoder reads at an offset. -/

namespace Sys2Proof

/-! Words as numbers. -/

theorem toNat_append_add {m n : Nat} (x : BitVec m) (y : BitVec n) :
    (x ++ y).toNat = x.toNat * 2 ^ n + y.toNat := by
  rw [BitVec.toNat_append, ← Nat.shiftLeft_add_eq_or_of_lt y.isLt, Nat.shiftLeft_eq]

theorem toNat_field (v : Word) (start len : Nat) :
    (v.extractLsb' start len).toNat = v.toNat / 2 ^ start % 2 ^ len := by
  simp [BitVec.extractLsb'_toNat, Nat.shiftRight_eq_div_pow]

/-! PIX words (30_encoding.md R93, R114). -/

theorem pixWord_toNat (r g b a : Byte) :
    (pixWord r g b a).toNat = ((a.toNat * 256 + b.toNat) * 256 + g.toNat) * 256 + r.toNat := by
  unfold pixWord
  erw [toNat_append_add, toNat_append_add, toNat_append_add]
  omega

/-- The lanes of a PIX word built of four bytes are those bytes. -/
theorem pix_lanes (r g b a : Byte) :
    pixR (pixWord r g b a) = r ∧ pixG (pixWord r g b a) = g ∧ pixB (pixWord r g b a) = b ∧
      pixA (pixWord r g b a) = a := by
  have := r.isLt
  have := g.isLt
  have := b.isLt
  have := a.isLt
  refine ⟨?_, ?_, ?_, ?_⟩ <;> apply BitVec.eq_of_toNat_eq <;>
    simp only [pixR, pixG, pixB, pixA, toNat_field, pixWord_toNat] <;> omega

/-- A word is the PIX word of its lanes. -/
theorem pixWord_lanes (v : Word) : pixWord (pixR v) (pixG v) (pixB v) (pixA v) = v := by
  have := v.isLt
  apply BitVec.eq_of_toNat_eq
  simp only [pixR, pixG, pixB, pixA, toNat_field, pixWord_toNat]
  omega

/-! CMD words (30_encoding.md R95). -/

theorem cmdWord_toNat (x : BitVec 28) (code : BitVec 4) :
    (x ++ code : Word).toNat = x.toNat * 16 + code.toNat := toNat_append_add x code

/-- The two fields of a CMD word. -/
theorem cmdWord_fields (x : BitVec 28) (code : BitVec 4) :
    (x ++ code : Word).extractLsb' 0 4 = code ∧ (x ++ code : Word).extractLsb' 4 28 = x := by
  have := code.isLt
  have := x.isLt
  constructor <;> apply BitVec.eq_of_toNat_eq <;> rw [toNat_field, cmdWord_toNat] <;> omega

/-- A word is the CMD word of its two fields. -/
theorem cmdWord_of_fields (v : Word) : (v.extractLsb' 4 28 ++ v.extractLsb' 0 4 : Word) = v := by
  have := v.isLt
  apply BitVec.eq_of_toNat_eq
  rw [cmdWord_toNat, toNat_field, toNat_field]
  omega

/-- The sixteen values of a 4-bit code. -/
theorem code_cases (c : BitVec 4) :
    c = 0#4 ∨ c = 1#4 ∨ c = 2#4 ∨ c = 3#4 ∨ c = 4#4 ∨ c = 5#4 ∨ c = 6#4 ∨ c = 7#4 ∨ c = 8#4 ∨ c = 9#4 ∨
      c = 10#4 ∨ c = 11#4 ∨ c = 12#4 ∨ c = 13#4 ∨ c = 14#4 ∨ c = 15#4 := by
  revert c
  decide

/-! Bus accesses (30_encoding.md R91). -/

/-- A word access at an aligned offset of the window is decoded by its direction. -/
theorem decode_bus {c : Config} {d : Dir} {off data : Word} (h4 : off.toNat % 4 = 0)
    (hl : off.toNat < c.regSize) :
    decode c (.bus ⟨d, .word, off, data⟩) =
      .ok (match d with | .write => decodeWrite off data | .read => decodeRead off) := by
  simp only [decode, decodeBus, ne_eq, not_true_eq_false, if_false, h4, Nat.not_le.mpr hl]
  cases d <;> rfl

/-- The offsets of the eight registers are in every window. -/
theorem decode_bus_low {c : Config} (hc : c.Wf) {d : Dir} {off data : Word} (h4 : off.toNat % 4 = 0)
    (hl : off.toNat < 0x20) :
    decode c (.bus ⟨d, .word, off, data⟩) =
      .ok (match d with | .write => decodeWrite off data | .read => decodeRead off) :=
  decode_bus h4 (Nat.lt_of_lt_of_le hl hc.regSize_min)

theorem decode_cmdWrite {c : Config} (hc : c.Wf) (x : BitVec 28) (code : BitVec 4) :
    decode c (cmdWrite code x) = .ok (decodeCmd (x ++ code)) := by
  unfold cmdWrite BusAccess.wr
  rw [decode_bus_low hc (by decide) (by decide)]
  rfl

/-! Frame fields (20_memory.md R71). -/

theorem ofLe16_toNat (lo hi : Byte) : (ofLe16 lo hi).toNat = hi.toNat * 256 + lo.toNat :=
  toNat_append_add hi lo

theorem le16_ofLe16 (lo hi : Byte) : le16 (ofLe16 lo hi).toNat = [lo, hi] := by
  have := lo.isLt
  have := hi.isLt
  simp only [le16, ofLe16_toNat, List.cons.injEq, and_true]
  constructor <;> apply BitVec.eq_of_toNat_eq <;> simp <;> omega

/-- Two bytes of a list that are the two bytes of `v` read as `v`. -/
theorem ofLe16_of_bytes (v : BitVec 16) (l : List Byte) (n : Nat)
    (h0 : l[n]? = some (BitVec.ofNat 8 v.toNat)) (h1 : l[n + 1]? = some (BitVec.ofNat 8 (v.toNat / 256))) :
    ofLe16 (l.getD n 0) (l.getD (n + 1) 0) = v := by
  have := v.isLt
  simp only [List.getD_eq_getElem?_getD, h0, h1, Option.getD_some]
  apply BitVec.eq_of_toNat_eq
  rw [ofLe16_toNat]
  simp
  omega

end Sys2Proof
end

