-- ==== Sys2Proof/Laws/State.lean ====
section
/-! SUPPORT. One lemma per field of the state and per named update of it. -/

namespace Sys2Proof.Machine

/-! A read changes `rdata` only. -/

@[simp] theorem returnData_rdata (v : Word) (s : State) : (returnData v s).rdata = v := rfl
@[simp] theorem returnData_ctrl (v : Word) (s : State) : (returnData v s).ctrl = s.ctrl := rfl
@[simp] theorem returnData_thresh (v : Word) (s : State) : (returnData v s).thresh = s.thresh := rfl
@[simp] theorem returnData_width (v : Word) (s : State) : (returnData v s).width = s.width := rfl
@[simp] theorem returnData_height (v : Word) (s : State) : (returnData v s).height = s.height := rfl
@[simp] theorem returnData_effThr (v : Word) (s : State) : (returnData v s).effThr = s.effThr := rfl
@[simp] theorem returnData_cfg (v : Word) (s : State) : (returnData v s).cfg = s.cfg := rfl
@[simp] theorem returnData_imgW (v : Word) (s : State) : (returnData v s).imgW = s.imgW := rfl
@[simp] theorem returnData_imgH (v : Word) (s : State) : (returnData v s).imgH = s.imgH := rfl
@[simp] theorem returnData_n (v : Word) (s : State) : (returnData v s).n = s.n := rfl
@[simp] theorem returnData_canvasW (v : Word) (s : State) : (returnData v s).canvasW = s.canvasW := rfl
@[simp] theorem returnData_stride (v : Word) (s : State) : (returnData v s).stride = s.stride := rfl
@[simp] theorem returnData_offset (v : Word) (s : State) : (returnData v s).offset = s.offset := rfl
@[simp] theorem returnData_phase (v : Word) (s : State) : (returnData v s).phase = s.phase := rfl
@[simp] theorem returnData_li (v : Word) (s : State) : (returnData v s).li = s.li := rfl
@[simp] theorem returnData_jobActive (v : Word) (s : State) : (returnData v s).jobActive = s.jobActive := rfl
@[simp] theorem returnData_err (v : Word) (s : State) : (returnData v s).err = s.err := rfl
@[simp] theorem returnData_errcode (v : Word) (s : State) : (returnData v s).errcode = s.errcode := rfl
@[simp] theorem returnData_row0 (v : Word) (s : State) : (returnData v s).row0 = s.row0 := rfl
@[simp] theorem returnData_k (v : Word) (s : State) : (returnData v s).k = s.k := rfl
@[simp] theorem returnData_pos (v : Word) (s : State) : (returnData v s).pos = s.pos := rfl
@[simp] theorem returnData_lf (v : Word) (s : State) : (returnData v s).lf = s.lf := rfl
@[simp] theorem returnData_hist (v : Word) (s : State) : (returnData v s).hist = s.hist := rfl
@[simp] theorem returnData_histMode (v : Word) (s : State) : (returnData v s).histMode = s.histMode := rfl
@[simp] theorem returnData_canvas (v : Word) (s : State) : (returnData v s).canvas = s.canvas := rfl
@[simp] theorem returnData_held (v : Word) (s : State) : (returnData v s).held = s.held := rfl
@[simp] theorem returnData_conf (v : Word) (s : State) : (returnData v s).conf = s.conf := rfl
@[simp] theorem returnData_out (v : Word) (s : State) : (returnData v s).out = s.out := rfl
@[simp] theorem returnData_host (v : Word) (s : State) : (returnData v s).host = s.host := rfl
@[simp] theorem returnData_turns (v : Word) (s : State) : (returnData v s).turns = s.turns := rfl
@[simp] theorem returnData_sink (v : Word) (s : State) : (returnData v s).sink = s.sink := rfl
@[simp] theorem returnData_draws (v : Word) (s : State) : (returnData v s).draws = s.draws := rfl

/-! Error entry changes `err`, `errcode` and `phase` only. -/

@[simp] theorem raiseErr_phase (k : ErrKind) (s : State) : (raiseErr k s).phase = .halted := by
  unfold raiseErr; split <;> rfl
@[simp] theorem raiseErr_err (k : ErrKind) (s : State) : (raiseErr k s).err = true := by
  unfold raiseErr; split <;> simp_all
theorem raiseErr_errcode (k : ErrKind) (s : State) :
    (raiseErr k s).errcode = if s.err then s.errcode else k := by
  unfold raiseErr; split <;> rfl
@[simp] theorem raiseErr_ctrl (k : ErrKind) (s : State) : (raiseErr k s).ctrl = s.ctrl := by
  unfold raiseErr; split <;> rfl
@[simp] theorem raiseErr_thresh (k : ErrKind) (s : State) : (raiseErr k s).thresh = s.thresh := by
  unfold raiseErr; split <;> rfl
@[simp] theorem raiseErr_width (k : ErrKind) (s : State) : (raiseErr k s).width = s.width := by
  unfold raiseErr; split <;> rfl
@[simp] theorem raiseErr_height (k : ErrKind) (s : State) : (raiseErr k s).height = s.height := by
  unfold raiseErr; split <;> rfl
@[simp] theorem raiseErr_effThr (k : ErrKind) (s : State) : (raiseErr k s).effThr = s.effThr := by
  unfold raiseErr; split <;> rfl
@[simp] theorem raiseErr_cfg (k : ErrKind) (s : State) : (raiseErr k s).cfg = s.cfg := by
  unfold raiseErr; split <;> rfl
@[simp] theorem raiseErr_imgW (k : ErrKind) (s : State) : (raiseErr k s).imgW = s.imgW := by
  unfold raiseErr; split <;> rfl
@[simp] theorem raiseErr_imgH (k : ErrKind) (s : State) : (raiseErr k s).imgH = s.imgH := by
  unfold raiseErr; split <;> rfl
@[simp] theorem raiseErr_n (k : ErrKind) (s : State) : (raiseErr k s).n = s.n := by
  unfold raiseErr; split <;> rfl
@[simp] theorem raiseErr_canvasW (k : ErrKind) (s : State) : (raiseErr k s).canvasW = s.canvasW := by
  unfold raiseErr; split <;> rfl
@[simp] theorem raiseErr_stride (k : ErrKind) (s : State) : (raiseErr k s).stride = s.stride := by
  unfold raiseErr; split <;> rfl
@[simp] theorem raiseErr_offset (k : ErrKind) (s : State) : (raiseErr k s).offset = s.offset := by
  unfold raiseErr; split <;> rfl
@[simp] theorem raiseErr_li (k : ErrKind) (s : State) : (raiseErr k s).li = s.li := by
  unfold raiseErr; split <;> rfl
@[simp] theorem raiseErr_jobActive (k : ErrKind) (s : State) : (raiseErr k s).jobActive = s.jobActive := by
  unfold raiseErr; split <;> rfl
@[simp] theorem raiseErr_row0 (k : ErrKind) (s : State) : (raiseErr k s).row0 = s.row0 := by
  unfold raiseErr; split <;> rfl
@[simp] theorem raiseErr_k (k : ErrKind) (s : State) : (raiseErr k s).k = s.k := by
  unfold raiseErr; split <;> rfl
@[simp] theorem raiseErr_pos (k : ErrKind) (s : State) : (raiseErr k s).pos = s.pos := by
  unfold raiseErr; split <;> rfl
@[simp] theorem raiseErr_lf (k : ErrKind) (s : State) : (raiseErr k s).lf = s.lf := by
  unfold raiseErr; split <;> rfl
@[simp] theorem raiseErr_hist (k : ErrKind) (s : State) : (raiseErr k s).hist = s.hist := by
  unfold raiseErr; split <;> rfl
@[simp] theorem raiseErr_histMode (k : ErrKind) (s : State) : (raiseErr k s).histMode = s.histMode := by
  unfold raiseErr; split <;> rfl
@[simp] theorem raiseErr_canvas (k : ErrKind) (s : State) : (raiseErr k s).canvas = s.canvas := by
  unfold raiseErr; split <;> rfl
@[simp] theorem raiseErr_held (k : ErrKind) (s : State) : (raiseErr k s).held = s.held := by
  unfold raiseErr; split <;> rfl
@[simp] theorem raiseErr_conf (k : ErrKind) (s : State) : (raiseErr k s).conf = s.conf := by
  unfold raiseErr; split <;> rfl
@[simp] theorem raiseErr_out (k : ErrKind) (s : State) : (raiseErr k s).out = s.out := by
  unfold raiseErr; split <;> rfl
@[simp] theorem raiseErr_rdata (k : ErrKind) (s : State) : (raiseErr k s).rdata = s.rdata := by
  unfold raiseErr; split <;> rfl
@[simp] theorem raiseErr_host (k : ErrKind) (s : State) : (raiseErr k s).host = s.host := by
  unfold raiseErr; split <;> rfl
@[simp] theorem raiseErr_turns (k : ErrKind) (s : State) : (raiseErr k s).turns = s.turns := by
  unfold raiseErr; split <;> rfl
@[simp] theorem raiseErr_sink (k : ErrKind) (s : State) : (raiseErr k s).sink = s.sink := by
  unfold raiseErr; split <;> rfl
@[simp] theorem raiseErr_draws (k : ErrKind) (s : State) : (raiseErr k s).draws = s.draws := by
  unfold raiseErr; split <;> rfl

/-! Reset. -/

@[simp] theorem resetEngine_ctrl (s : State) : (resetEngine s).ctrl = State.reset.ctrl := rfl
@[simp] theorem resetEngine_thresh (s : State) : (resetEngine s).thresh = State.reset.thresh := rfl
@[simp] theorem resetEngine_width (s : State) : (resetEngine s).width = State.reset.width := rfl
@[simp] theorem resetEngine_height (s : State) : (resetEngine s).height = State.reset.height := rfl
@[simp] theorem resetEngine_effThr (s : State) : (resetEngine s).effThr = State.reset.effThr := rfl
@[simp] theorem resetEngine_cfg (s : State) : (resetEngine s).cfg = State.reset.cfg := rfl
@[simp] theorem resetEngine_imgW (s : State) : (resetEngine s).imgW = State.reset.imgW := rfl
@[simp] theorem resetEngine_imgH (s : State) : (resetEngine s).imgH = State.reset.imgH := rfl
@[simp] theorem resetEngine_n (s : State) : (resetEngine s).n = State.reset.n := rfl
@[simp] theorem resetEngine_canvasW (s : State) : (resetEngine s).canvasW = State.reset.canvasW := rfl
@[simp] theorem resetEngine_stride (s : State) : (resetEngine s).stride = State.reset.stride := rfl
@[simp] theorem resetEngine_offset (s : State) : (resetEngine s).offset = State.reset.offset := rfl
@[simp] theorem resetEngine_phase (s : State) : (resetEngine s).phase = State.reset.phase := rfl
@[simp] theorem resetEngine_li (s : State) : (resetEngine s).li = State.reset.li := rfl
@[simp] theorem resetEngine_jobActive (s : State) : (resetEngine s).jobActive = State.reset.jobActive := rfl
@[simp] theorem resetEngine_err (s : State) : (resetEngine s).err = State.reset.err := rfl
@[simp] theorem resetEngine_errcode (s : State) : (resetEngine s).errcode = State.reset.errcode := rfl
@[simp] theorem resetEngine_row0 (s : State) : (resetEngine s).row0 = State.reset.row0 := rfl
@[simp] theorem resetEngine_k (s : State) : (resetEngine s).k = State.reset.k := rfl
@[simp] theorem resetEngine_pos (s : State) : (resetEngine s).pos = State.reset.pos := rfl
@[simp] theorem resetEngine_lf (s : State) : (resetEngine s).lf = ⟨s.draws, []⟩ := rfl
@[simp] theorem resetEngine_hist (s : State) : (resetEngine s).hist = ⟨s.draws + 1, []⟩ := rfl
@[simp] theorem resetEngine_histMode (s : State) : (resetEngine s).histMode = State.reset.histMode := rfl
@[simp] theorem resetEngine_canvas (s : State) : (resetEngine s).canvas = ⟨s.draws + 2, []⟩ := rfl
@[simp] theorem resetEngine_held (s : State) : (resetEngine s).held = State.reset.held := rfl
@[simp] theorem resetEngine_conf (s : State) : (resetEngine s).conf = s.conf := rfl
@[simp] theorem resetEngine_out (s : State) : (resetEngine s).out = s.out := rfl
@[simp] theorem resetEngine_rdata (s : State) : (resetEngine s).rdata = s.rdata := rfl
@[simp] theorem resetEngine_host (s : State) : (resetEngine s).host = s.host := rfl
@[simp] theorem resetEngine_turns (s : State) : (resetEngine s).turns = s.turns := rfl
@[simp] theorem resetEngine_sink (s : State) : (resetEngine s).sink = s.sink := rfl
@[simp] theorem resetEngine_draws (s : State) : (resetEngine s).draws = s.draws + 3 := rfl

/-! An offer takes one answer. -/

@[simp] theorem drawAnswer_ctrl (s : State) : (drawAnswer s).2.ctrl = s.ctrl := by
  unfold drawAnswer; split <;> rfl
@[simp] theorem drawAnswer_thresh (s : State) : (drawAnswer s).2.thresh = s.thresh := by
  unfold drawAnswer; split <;> rfl
@[simp] theorem drawAnswer_width (s : State) : (drawAnswer s).2.width = s.width := by
  unfold drawAnswer; split <;> rfl
@[simp] theorem drawAnswer_height (s : State) : (drawAnswer s).2.height = s.height := by
  unfold drawAnswer; split <;> rfl
@[simp] theorem drawAnswer_effThr (s : State) : (drawAnswer s).2.effThr = s.effThr := by
  unfold drawAnswer; split <;> rfl
@[simp] theorem drawAnswer_cfg (s : State) : (drawAnswer s).2.cfg = s.cfg := by
  unfold drawAnswer; split <;> rfl
@[simp] theorem drawAnswer_imgW (s : State) : (drawAnswer s).2.imgW = s.imgW := by
  unfold drawAnswer; split <;> rfl
@[simp] theorem drawAnswer_imgH (s : State) : (drawAnswer s).2.imgH = s.imgH := by
  unfold drawAnswer; split <;> rfl
@[simp] theorem drawAnswer_n (s : State) : (drawAnswer s).2.n = s.n := by
  unfold drawAnswer; split <;> rfl
@[simp] theorem drawAnswer_canvasW (s : State) : (drawAnswer s).2.canvasW = s.canvasW := by
  unfold drawAnswer; split <;> rfl
@[simp] theorem drawAnswer_stride (s : State) : (drawAnswer s).2.stride = s.stride := by
  unfold drawAnswer; split <;> rfl
@[simp] theorem drawAnswer_offset (s : State) : (drawAnswer s).2.offset = s.offset := by
  unfold drawAnswer; split <;> rfl
@[simp] theorem drawAnswer_phase (s : State) : (drawAnswer s).2.phase = s.phase := by
  unfold drawAnswer; split <;> rfl
@[simp] theorem drawAnswer_li (s : State) : (drawAnswer s).2.li = s.li := by
  unfold drawAnswer; split <;> rfl
@[simp] theorem drawAnswer_jobActive (s : State) : (drawAnswer s).2.jobActive = s.jobActive := by
  unfold drawAnswer; split <;> rfl
@[simp] theorem drawAnswer_err (s : State) : (drawAnswer s).2.err = s.err := by
  unfold drawAnswer; split <;> rfl
@[simp] theorem drawAnswer_errcode (s : State) : (drawAnswer s).2.errcode = s.errcode := by
  unfold drawAnswer; split <;> rfl
@[simp] theorem drawAnswer_row0 (s : State) : (drawAnswer s).2.row0 = s.row0 := by
  unfold drawAnswer; split <;> rfl
@[simp] theorem drawAnswer_k (s : State) : (drawAnswer s).2.k = s.k := by
  unfold drawAnswer; split <;> rfl
@[simp] theorem drawAnswer_pos (s : State) : (drawAnswer s).2.pos = s.pos := by
  unfold drawAnswer; split <;> rfl
@[simp] theorem drawAnswer_lf (s : State) : (drawAnswer s).2.lf = s.lf := by
  unfold drawAnswer; split <;> rfl
@[simp] theorem drawAnswer_hist (s : State) : (drawAnswer s).2.hist = s.hist := by
  unfold drawAnswer; split <;> rfl
@[simp] theorem drawAnswer_histMode (s : State) : (drawAnswer s).2.histMode = s.histMode := by
  unfold drawAnswer; split <;> rfl
@[simp] theorem drawAnswer_canvas (s : State) : (drawAnswer s).2.canvas = s.canvas := by
  unfold drawAnswer; split <;> rfl
@[simp] theorem drawAnswer_held (s : State) : (drawAnswer s).2.held = s.held := by
  unfold drawAnswer; split <;> rfl
@[simp] theorem drawAnswer_conf (s : State) : (drawAnswer s).2.conf = s.conf := by
  unfold drawAnswer; split <;> rfl
@[simp] theorem drawAnswer_out (s : State) : (drawAnswer s).2.out = s.out := by
  unfold drawAnswer; split <;> rfl
@[simp] theorem drawAnswer_rdata (s : State) : (drawAnswer s).2.rdata = s.rdata := by
  unfold drawAnswer; split <;> rfl
@[simp] theorem drawAnswer_host (s : State) : (drawAnswer s).2.host = s.host := by
  unfold drawAnswer; split <;> rfl
@[simp] theorem drawAnswer_turns (s : State) : (drawAnswer s).2.turns = s.turns := by
  unfold drawAnswer; split <;> rfl

/-! The start of a chunk changes `k` and `pos` only. -/

@[simp] theorem chunkStart_k (s : State) :
    (chunkStart s).k = BitVec.ofNat 11 (chunkHeight s.conf.gs8lMaxY s.imgH.toNat s.row0.toNat) := rfl
@[simp] theorem chunkStart_pos (s : State) : (chunkStart s).pos = .before (firstFrame s) := rfl
@[simp] theorem chunkStart_ctrl (s : State) : (chunkStart s).ctrl = s.ctrl := rfl
@[simp] theorem chunkStart_thresh (s : State) : (chunkStart s).thresh = s.thresh := rfl
@[simp] theorem chunkStart_width (s : State) : (chunkStart s).width = s.width := rfl
@[simp] theorem chunkStart_height (s : State) : (chunkStart s).height = s.height := rfl
@[simp] theorem chunkStart_effThr (s : State) : (chunkStart s).effThr = s.effThr := rfl
@[simp] theorem chunkStart_cfg (s : State) : (chunkStart s).cfg = s.cfg := rfl
@[simp] theorem chunkStart_imgW (s : State) : (chunkStart s).imgW = s.imgW := rfl
@[simp] theorem chunkStart_imgH (s : State) : (chunkStart s).imgH = s.imgH := rfl
@[simp] theorem chunkStart_n (s : State) : (chunkStart s).n = s.n := rfl
@[simp] theorem chunkStart_canvasW (s : State) : (chunkStart s).canvasW = s.canvasW := rfl
@[simp] theorem chunkStart_stride (s : State) : (chunkStart s).stride = s.stride := rfl
@[simp] theorem chunkStart_offset (s : State) : (chunkStart s).offset = s.offset := rfl
@[simp] theorem chunkStart_phase (s : State) : (chunkStart s).phase = s.phase := rfl
@[simp] theorem chunkStart_li (s : State) : (chunkStart s).li = s.li := rfl
@[simp] theorem chunkStart_jobActive (s : State) : (chunkStart s).jobActive = s.jobActive := rfl
@[simp] theorem chunkStart_err (s : State) : (chunkStart s).err = s.err := rfl
@[simp] theorem chunkStart_errcode (s : State) : (chunkStart s).errcode = s.errcode := rfl
@[simp] theorem chunkStart_row0 (s : State) : (chunkStart s).row0 = s.row0 := rfl
@[simp] theorem chunkStart_lf (s : State) : (chunkStart s).lf = s.lf := rfl
@[simp] theorem chunkStart_hist (s : State) : (chunkStart s).hist = s.hist := rfl
@[simp] theorem chunkStart_histMode (s : State) : (chunkStart s).histMode = s.histMode := rfl
@[simp] theorem chunkStart_canvas (s : State) : (chunkStart s).canvas = s.canvas := rfl
@[simp] theorem chunkStart_held (s : State) : (chunkStart s).held = s.held := rfl
@[simp] theorem chunkStart_conf (s : State) : (chunkStart s).conf = s.conf := rfl
@[simp] theorem chunkStart_out (s : State) : (chunkStart s).out = s.out := rfl
@[simp] theorem chunkStart_rdata (s : State) : (chunkStart s).rdata = s.rdata := rfl
@[simp] theorem chunkStart_host (s : State) : (chunkStart s).host = s.host := rfl
@[simp] theorem chunkStart_turns (s : State) : (chunkStart s).turns = s.turns := rfl
@[simp] theorem chunkStart_sink (s : State) : (chunkStart s).sink = s.sink := rfl
@[simp] theorem chunkStart_draws (s : State) : (chunkStart s).draws = s.draws := rfl

/-! What the end of a frame can change. -/

@[simp] theorem frameDone_ctrl (kind : FrameKind) (s : State) : (frameDone kind s).ctrl = s.ctrl := by
  cases kind <;> first | rfl | (simp only [frameDone]; split <;> rfl)
@[simp] theorem frameDone_thresh (kind : FrameKind) (s : State) : (frameDone kind s).thresh = s.thresh := by
  cases kind <;> first | rfl | (simp only [frameDone]; split <;> rfl)
@[simp] theorem frameDone_width (kind : FrameKind) (s : State) : (frameDone kind s).width = s.width := by
  cases kind <;> first | rfl | (simp only [frameDone]; split <;> rfl)
@[simp] theorem frameDone_height (kind : FrameKind) (s : State) : (frameDone kind s).height = s.height := by
  cases kind <;> first | rfl | (simp only [frameDone]; split <;> rfl)
@[simp] theorem frameDone_effThr (kind : FrameKind) (s : State) : (frameDone kind s).effThr = s.effThr := by
  cases kind <;> first | rfl | (simp only [frameDone]; split <;> rfl)
@[simp] theorem frameDone_cfg (kind : FrameKind) (s : State) : (frameDone kind s).cfg = s.cfg := by
  cases kind <;> first | rfl | (simp only [frameDone]; split <;> rfl)
@[simp] theorem frameDone_imgW (kind : FrameKind) (s : State) : (frameDone kind s).imgW = s.imgW := by
  cases kind <;> first | rfl | (simp only [frameDone]; split <;> rfl)
@[simp] theorem frameDone_imgH (kind : FrameKind) (s : State) : (frameDone kind s).imgH = s.imgH := by
  cases kind <;> first | rfl | (simp only [frameDone]; split <;> rfl)
@[simp] theorem frameDone_n (kind : FrameKind) (s : State) : (frameDone kind s).n = s.n := by
  cases kind <;> first | rfl | (simp only [frameDone]; split <;> rfl)
@[simp] theorem frameDone_canvasW (kind : FrameKind) (s : State) : (frameDone kind s).canvasW = s.canvasW := by
  cases kind <;> first | rfl | (simp only [frameDone]; split <;> rfl)
@[simp] theorem frameDone_stride (kind : FrameKind) (s : State) : (frameDone kind s).stride = s.stride := by
  cases kind <;> first | rfl | (simp only [frameDone]; split <;> rfl)
@[simp] theorem frameDone_offset (kind : FrameKind) (s : State) : (frameDone kind s).offset = s.offset := by
  cases kind <;> first | rfl | (simp only [frameDone]; split <;> rfl)
@[simp] theorem frameDone_li (kind : FrameKind) (s : State) : (frameDone kind s).li = s.li := by
  cases kind <;> first | rfl | (simp only [frameDone]; split <;> rfl)
@[simp] theorem frameDone_err (kind : FrameKind) (s : State) : (frameDone kind s).err = s.err := by
  cases kind <;> first | rfl | (simp only [frameDone]; split <;> rfl)
@[simp] theorem frameDone_errcode (kind : FrameKind) (s : State) : (frameDone kind s).errcode = s.errcode := by
  cases kind <;> first | rfl | (simp only [frameDone]; split <;> rfl)
@[simp] theorem frameDone_lf (kind : FrameKind) (s : State) : (frameDone kind s).lf = s.lf := by
  cases kind <;> first | rfl | (simp only [frameDone]; split <;> rfl)
@[simp] theorem frameDone_hist (kind : FrameKind) (s : State) : (frameDone kind s).hist = s.hist := by
  cases kind <;> first | rfl | (simp only [frameDone]; split <;> rfl)
@[simp] theorem frameDone_histMode (kind : FrameKind) (s : State) : (frameDone kind s).histMode = s.histMode := by
  cases kind <;> first | rfl | (simp only [frameDone]; split <;> rfl)
@[simp] theorem frameDone_canvas (kind : FrameKind) (s : State) : (frameDone kind s).canvas = s.canvas := by
  cases kind <;> first | rfl | (simp only [frameDone]; split <;> rfl)
@[simp] theorem frameDone_held (kind : FrameKind) (s : State) : (frameDone kind s).held = s.held := by
  cases kind <;> first | rfl | (simp only [frameDone]; split <;> rfl)
@[simp] theorem frameDone_conf (kind : FrameKind) (s : State) : (frameDone kind s).conf = s.conf := by
  cases kind <;> first | rfl | (simp only [frameDone]; split <;> rfl)
@[simp] theorem frameDone_out (kind : FrameKind) (s : State) : (frameDone kind s).out = s.out := by
  cases kind <;> first | rfl | (simp only [frameDone]; split <;> rfl)
@[simp] theorem frameDone_rdata (kind : FrameKind) (s : State) : (frameDone kind s).rdata = s.rdata := by
  cases kind <;> first | rfl | (simp only [frameDone]; split <;> rfl)
@[simp] theorem frameDone_host (kind : FrameKind) (s : State) : (frameDone kind s).host = s.host := by
  cases kind <;> first | rfl | (simp only [frameDone]; split <;> rfl)
@[simp] theorem frameDone_turns (kind : FrameKind) (s : State) : (frameDone kind s).turns = s.turns := by
  cases kind <;> first | rfl | (simp only [frameDone]; split <;> rfl)
@[simp] theorem frameDone_sink (kind : FrameKind) (s : State) : (frameDone kind s).sink = s.sink := by
  cases kind <;> first | rfl | (simp only [frameDone]; split <;> rfl)
@[simp] theorem frameDone_draws (kind : FrameKind) (s : State) : (frameDone kind s).draws = s.draws := by
  cases kind <;> first | rfl | (simp only [frameDone]; split <;> rfl)

/-! What one offered byte can change. -/

@[simp] theorem sendBytes_ctrl (kind : FrameKind) (bytes : List Byte) (s : State) :
    (sendBytes kind bytes s).ctrl = s.ctrl := by
  unfold sendBytes; split
  · simp
  · dsimp only; split <;> (try split) <;> simp
@[simp] theorem sendBytes_thresh (kind : FrameKind) (bytes : List Byte) (s : State) :
    (sendBytes kind bytes s).thresh = s.thresh := by
  unfold sendBytes; split
  · simp
  · dsimp only; split <;> (try split) <;> simp
@[simp] theorem sendBytes_width (kind : FrameKind) (bytes : List Byte) (s : State) :
    (sendBytes kind bytes s).width = s.width := by
  unfold sendBytes; split
  · simp
  · dsimp only; split <;> (try split) <;> simp
@[simp] theorem sendBytes_height (kind : FrameKind) (bytes : List Byte) (s : State) :
    (sendBytes kind bytes s).height = s.height := by
  unfold sendBytes; split
  · simp
  · dsimp only; split <;> (try split) <;> simp
@[simp] theorem sendBytes_effThr (kind : FrameKind) (bytes : List Byte) (s : State) :
    (sendBytes kind bytes s).effThr = s.effThr := by
  unfold sendBytes; split
  · simp
  · dsimp only; split <;> (try split) <;> simp
@[simp] theorem sendBytes_cfg (kind : FrameKind) (bytes : List Byte) (s : State) :
    (sendBytes kind bytes s).cfg = s.cfg := by
  unfold sendBytes; split
  · simp
  · dsimp only; split <;> (try split) <;> simp
@[simp] theorem sendBytes_imgW (kind : FrameKind) (bytes : List Byte) (s : State) :
    (sendBytes kind bytes s).imgW = s.imgW := by
  unfold sendBytes; split
  · simp
  · dsimp only; split <;> (try split) <;> simp
@[simp] theorem sendBytes_imgH (kind : FrameKind) (bytes : List Byte) (s : State) :
    (sendBytes kind bytes s).imgH = s.imgH := by
  unfold sendBytes; split
  · simp
  · dsimp only; split <;> (try split) <;> simp
@[simp] theorem sendBytes_n (kind : FrameKind) (bytes : List Byte) (s : State) :
    (sendBytes kind bytes s).n = s.n := by
  unfold sendBytes; split
  · simp
  · dsimp only; split <;> (try split) <;> simp
@[simp] theorem sendBytes_canvasW (kind : FrameKind) (bytes : List Byte) (s : State) :
    (sendBytes kind bytes s).canvasW = s.canvasW := by
  unfold sendBytes; split
  · simp
  · dsimp only; split <;> (try split) <;> simp
@[simp] theorem sendBytes_stride (kind : FrameKind) (bytes : List Byte) (s : State) :
    (sendBytes kind bytes s).stride = s.stride := by
  unfold sendBytes; split
  · simp
  · dsimp only; split <;> (try split) <;> simp
@[simp] theorem sendBytes_offset (kind : FrameKind) (bytes : List Byte) (s : State) :
    (sendBytes kind bytes s).offset = s.offset := by
  unfold sendBytes; split
  · simp
  · dsimp only; split <;> (try split) <;> simp
@[simp] theorem sendBytes_li (kind : FrameKind) (bytes : List Byte) (s : State) :
    (sendBytes kind bytes s).li = s.li := by
  unfold sendBytes; split
  · simp
  · dsimp only; split <;> (try split) <;> simp
@[simp] theorem sendBytes_lf (kind : FrameKind) (bytes : List Byte) (s : State) :
    (sendBytes kind bytes s).lf = s.lf := by
  unfold sendBytes; split
  · simp
  · dsimp only; split <;> (try split) <;> simp
@[simp] theorem sendBytes_hist (kind : FrameKind) (bytes : List Byte) (s : State) :
    (sendBytes kind bytes s).hist = s.hist := by
  unfold sendBytes; split
  · simp
  · dsimp only; split <;> (try split) <;> simp
@[simp] theorem sendBytes_histMode (kind : FrameKind) (bytes : List Byte) (s : State) :
    (sendBytes kind bytes s).histMode = s.histMode := by
  unfold sendBytes; split
  · simp
  · dsimp only; split <;> (try split) <;> simp
@[simp] theorem sendBytes_canvas (kind : FrameKind) (bytes : List Byte) (s : State) :
    (sendBytes kind bytes s).canvas = s.canvas := by
  unfold sendBytes; split
  · simp
  · dsimp only; split <;> (try split) <;> simp
@[simp] theorem sendBytes_held (kind : FrameKind) (bytes : List Byte) (s : State) :
    (sendBytes kind bytes s).held = s.held := by
  unfold sendBytes; split
  · simp
  · dsimp only; split <;> (try split) <;> simp
@[simp] theorem sendBytes_conf (kind : FrameKind) (bytes : List Byte) (s : State) :
    (sendBytes kind bytes s).conf = s.conf := by
  unfold sendBytes; split
  · simp
  · dsimp only; split <;> (try split) <;> simp
@[simp] theorem sendBytes_rdata (kind : FrameKind) (bytes : List Byte) (s : State) :
    (sendBytes kind bytes s).rdata = s.rdata := by
  unfold sendBytes; split
  · simp
  · dsimp only; split <;> (try split) <;> simp
@[simp] theorem sendBytes_host (kind : FrameKind) (bytes : List Byte) (s : State) :
    (sendBytes kind bytes s).host = s.host := by
  unfold sendBytes; split
  · simp
  · dsimp only; split <;> (try split) <;> simp
@[simp] theorem sendBytes_turns (kind : FrameKind) (bytes : List Byte) (s : State) :
    (sendBytes kind bytes s).turns = s.turns := by
  unfold sendBytes; split
  · simp
  · dsimp only; split <;> (try split) <;> simp

end Sys2Proof.Machine
end

