-- ==== Sys2Proof/Laws/Ops.lean ====
section
/-! SUPPORT. For each shared operation, what it can answer, said once. -/

namespace Sys2Proof.Machine

/-! The gate of CMD and PIXIN writes. -/

theorem gated_busy {i : Instr} {run : State → Result} {s : State} (h : s.busy = true) :
    gated i run s = .next { s with held := some i } := by
  simp [gated, h]

theorem gated_err {i : Instr} {run : State → Result} {s : State} (h : s.busy = false) (he : s.err = true) :
    gated i run s = .next s := by
  simp [gated, h, he]

theorem gated_run {i : Instr} {run : State → Result} {s : State} (h : s.busy = false) (he : s.err = false) :
    gated i run s = run s := by
  simp [gated, h, he]

/-- What a gated write can answer. -/
theorem gated_cases {i : Instr} {run : State → Result} {s t : State} (h : gated i run s = .next t) :
    (s.busy = true ∧ t = { s with held := some i }) ∨ (s.busy = false ∧ s.err = true ∧ t = s) ∨
      (s.busy = false ∧ s.err = false ∧ run s = .next t) := by
  unfold gated at h
  split at h
  · exact .inl ⟨‹_›, by simpa using h.symm⟩
  · split at h
    · exact .inr (.inl ⟨by simpa using ‹¬ s.busy = true›, ‹_›, by simpa using h.symm⟩)
    · exact .inr (.inr ⟨by simpa using ‹¬ s.busy = true›, by simpa using ‹¬ s.err = true›, h⟩)

/-- Every instruction that can be a held write goes through the gate. -/
theorem exec_gated {i : Instr} (h : isHoldable i = true) : ∃ run, ∀ s, exec i s = gated i run s := by
  cases i <;> first | exact ⟨_, fun _ => rfl⟩ | exact absurd h Bool.false_ne_true

/-- A phase that waits for the host, by name. -/
theorem busy_false_iff (p : Phase) :
    p.busy = false ↔ p = .idle ∨ p = .ready ∨ p = .load ∨ p = .halted := by
  cases p <;> simp [Phase.busy]

/-! Offers. -/

/-- An offer can be answered in three ways. -/
theorem sendBytes_cases (kind : FrameKind) (b : Byte) (rest : List Byte) (s : State) :
    ((drawAnswer s).1 = .accept ∧ rest = [] ∧
      sendBytes kind (b :: rest) s =
        frameDone kind { (drawAnswer s).2 with out := s.out ++ [b] }) ∨
    ((drawAnswer s).1 = .accept ∧ rest ≠ [] ∧
      sendBytes kind (b :: rest) s =
        { (drawAnswer s).2 with out := s.out ++ [b], pos := .inside kind rest }) ∨
    ((drawAnswer s).1 = .stall ∧
      sendBytes kind (b :: rest) s = { (drawAnswer s).2 with pos := .inside kind (b :: rest) }) ∨
    ((drawAnswer s).1 = .fail ∧
      sendBytes kind (b :: rest) s = raiseErr .sinkWriteFailure (drawAnswer s).2) := by
  cases ha : (drawAnswer s).1 <;> simp only [sendBytes, ha]
  · by_cases hr : rest = [] <;> simp [hr]
  · simp
  · simp

@[simp] theorem drawAnswer_cons {s : State} {a : SinkAnswer} {l : List SinkAnswer} (h : s.sink = a :: l) :
    drawAnswer s = (a, { s with sink := l }) := by
  simp [drawAnswer, h]

/-- The frames' lengths (30_encoding.md R100). -/
@[simp] theorem le16_length (v : Nat) : (le16 v).length = 2 := rfl
@[simp] theorem initFrame_length (c : Config) : (initFrame c).length = 2 := by simp [initFrame]
@[simp] theorem marginFrame_length (c : Config) (v : Nat) : (marginFrame c v).length = 4 := by simp [marginFrame]
@[simp] theorem storeHeader_length (c : Config) (p w k : Nat) : (storeHeader c p w k).length = 17 := by
  simp [storeHeader]
@[simp] theorem flushFrame_length (c : Config) : (flushFrame c).length = 7 := by simp [flushFrame]
@[simp] theorem cutFrame_length (c : Config) : (cutFrame c).length = 4 := by simp [cutFrame]

/-- No frame is empty. -/
theorem frameBytes_ne_nil (kind : FrameKind) (s : State) : frameBytes kind s ≠ [] := by
  cases kind <;> (rw [← List.length_pos_iff]; simp [frameBytes])

/-- Every frame has a first byte and more after it. -/
theorem frameBytes_cons (kind : FrameKind) (s : State) : ∃ b rest, rest ≠ [] ∧ frameBytes kind s = b :: rest := by
  have h : 2 ≤ (frameBytes kind s).length := by
    cases kind <;> simp [frameBytes]
    omega
  match frameBytes kind s, h with
  | b :: c :: rest, _ => exact ⟨b, c :: rest, by simp, rfl⟩

/-- Offering a byte that is not the frame's last: what each answer leaves (20_memory.md R75). -/
theorem sendBytes_offer {s : State} {answers : List SinkAnswer} (kind : FrameKind) (b : Byte) {rest : List Byte}
    (hr : rest ≠ []) :
    (s.sink = .accept :: answers →
      sendBytes kind (b :: rest) s =
        { s with sink := answers, out := s.out ++ [b], pos := .inside kind rest }) ∧
    (s.sink = .stall :: answers →
      sendBytes kind (b :: rest) s = { s with sink := answers, pos := .inside kind (b :: rest) }) ∧
    (s.sink = .fail :: answers →
      sendBytes kind (b :: rest) s = raiseErr .sinkWriteFailure { s with sink := answers }) :=
  ⟨fun h => by simp [sendBytes, drawAnswer_cons h, hr], fun h => by simp [sendBytes, drawAnswer_cons h],
    fun h => by simp [sendBytes, drawAnswer_cons h]⟩

/-- Beginning a frame offers its first byte, unless its payload would pass the canvas buffer. -/
theorem beginFrame_next {kind : FrameKind} {s : State}
    (h : kind = .store → (s.row0.toNat + s.k.toNat) * s.stride.toNat ≤ s.conf.canvasCap) :
    beginFrame kind s = .next (sendBytes kind (frameBytes kind s) s) := by
  have : ¬ (kind = .store ∧ s.conf.canvasCap < (s.row0.toNat + s.k.toNat) * s.stride.toNat) := by
    rintro ⟨hk, hlt⟩; exact absurd (h hk) (by omega)
  simp [beginFrame, this]

/-- An emission step answers a next state that comes of offering one byte of a frame. -/
theorem emitFrom_cases {first : FrameKind} {ready : State → State} {s t : State}
    (h : emitFrom first ready s = .next t) :
    (s.pos = .start ∧ t = sendBytes first (frameBytes first (ready s)) (ready s)) ∨
    (∃ kind, s.pos = .before kind ∧ t = sendBytes kind (frameBytes kind s) s) ∨
    (∃ kind rest, s.pos = .inside kind rest ∧ t = sendBytes kind rest s) := by
  unfold emitFrom beginFrame at h
  split at h
  · split at h
    · simp at h
    · exact .inl ⟨‹_›, by simpa using h.symm⟩
  · split at h
    · simp at h
    · exact .inr (.inl ⟨_, ‹_›, by simpa using h.symm⟩)
  · exact .inr (.inr ⟨_, _, ‹_›, by simpa using h.symm⟩)

/-! The move of a step. -/

/-- With no turn decided and the engine not busy, only the host can move. -/
theorem chooseMove_idle {s : State} (ht : s.turns = []) (hb : s.busy = false) :
    chooseMove s = (hostMove s).getD (.wait, s) := by
  unfold chooseMove
  rw [ht]
  simp only [engineMove, hb]
  cases hostMove s <;> simp [preferred]

/-- The engine's turn, while it is busy. -/
theorem chooseMove_engine {s : State} {ts : List Turn} (ht : s.turns = .engine :: ts) (hb : s.busy = true) :
    chooseMove s = (.operate s.phase.code, { s with turns := ts }) := by
  unfold chooseMove
  rw [ht]
  have : engineMove { s with turns := ts } = some (.operate s.phase.code, { s with turns := ts }) := by
    unfold engineMove; simp only [State.busy] at hb ⊢; simp [hb]
  simp [preferred, this]

/-- The engine is busy and the host has nothing to do: the engine moves. -/
theorem chooseMove_engine_alone {s : State} (ht : s.turns = []) (hb : s.busy = true) (hm : hostMove s = none) :
    chooseMove s = (.operate s.phase.code, s) := by
  unfold chooseMove
  rw [ht]
  simp [hm, engineMove, hb, preferred]

end Sys2Proof.Machine
end

