-- ==== Sys2Proof/Laws/PerInstr.lean ====
section
/-! SUPPORT. The encoder writes only what the rules let stand: word accesses at multiples of 4 inside the
register window, codes of operations, frames that are not empty. One lemma per instruction. -/

namespace Sys2Proof.Laws.EncodesLegally

open Sys2Proof Sys2Proof.Machine

/-- A bus access is word-wide, aligned and in the window (20_memory.md R77, R78); a phase code names an
operation (30_encoding.md R112); a frame is not empty (R100). -/
def legal (c : Config) (f : Fetch) : Prop :=
  match f with
  | .bus a => a.size = .word ∧ a.off.toNat % 4 = 0 ∧ a.off.toNat < c.regSize
  | .phase code _ => 2 ≤ code.toNat ∧ code.toNat ≤ 10
  | .frame bytes => bytes ≠ []

/-- The encoding of a well-formed instruction is legal. -/
def Statement (i : Instr) : Prop :=
  ∀ c : Config, c.Wf → i.wellFormed c = true → legal c (encode c i)

theorem unmappedOk_iff {c : Config} {off : Word} :
    unmappedOk c off = true ↔ off.toNat % 4 = 0 ∧ 0x20 ≤ off.toNat ∧ off.toNat < c.regSize := by
  simp [unmappedOk, and_assoc]

/-- The offsets of the eight registers are legal on every machine. -/
theorem legal_low {c : Config} (hc : c.Wf) {d : Dir} {off data : Word} (h4 : off.toNat % 4 = 0)
    (hl : off.toNat < 0x20) : legal c (.bus ⟨d, .word, off, data⟩) :=
  ⟨rfl, h4, Nat.lt_of_lt_of_le hl hc.regSize_min⟩

theorem wrCtrl (data : Word) : Statement (.wrCtrl data) := by
  intro c hc _
  exact legal_low hc (by decide) (by decide)
theorem wrThresh (data : Word) : Statement (.wrThresh data) := by
  intro c hc _
  exact legal_low hc (by decide) (by decide)
theorem wrWidth (data : Word) : Statement (.wrWidth data) := by
  intro c hc _
  exact legal_low hc (by decide) (by decide)
theorem wrHeight (data : Word) : Statement (.wrHeight data) := by
  intro c hc _
  exact legal_low hc (by decide) (by decide)
theorem wrStatus (data : Word) : Statement (.wrStatus data) := by
  intro c hc _
  exact legal_low hc (by decide) (by decide)
theorem wrEffThresh (data : Word) : Statement (.wrEffThresh data) := by
  intro c hc _
  exact legal_low hc (by decide) (by decide)
theorem wrUnmapped (off data : Word) : Statement (.wrUnmapped off data) := by
  intro c _ hi
  have h := unmappedOk_iff.mp hi
  exact ⟨rfl, h.1, h.2.2⟩
theorem rdCtrl : Statement .rdCtrl := by
  intro c hc _
  exact legal_low hc (by decide) (by decide)
theorem rdThresh : Statement .rdThresh := by
  intro c hc _
  exact legal_low hc (by decide) (by decide)
theorem rdWidth : Statement .rdWidth := by
  intro c hc _
  exact legal_low hc (by decide) (by decide)
theorem rdHeight : Statement .rdHeight := by
  intro c hc _
  exact legal_low hc (by decide) (by decide)
theorem rdCmd : Statement .rdCmd := by
  intro c hc _
  exact legal_low hc (by decide) (by decide)
theorem rdStatus : Statement .rdStatus := by
  intro c hc _
  exact legal_low hc (by decide) (by decide)
theorem rdPixin : Statement .rdPixin := by
  intro c hc _
  exact legal_low hc (by decide) (by decide)
theorem rdEffThresh : Statement .rdEffThresh := by
  intro c hc _
  exact legal_low hc (by decide) (by decide)
theorem rdUnmapped (off : Word) : Statement (.rdUnmapped off) := by
  intro c _ hi
  have h := unmappedOk_iff.mp hi
  exact ⟨rfl, h.1, h.2.2⟩
theorem nop (ignored : BitVec 28) : Statement (.nop ignored) := by
  intro c hc _
  exact legal_low hc (by decide) (by decide)
theorem jobStart (ignored : BitVec 28) : Statement (.jobStart ignored) := by
  intro c hc _
  exact legal_low hc (by decide) (by decide)
theorem image (ignored : BitVec 28) : Statement (.image ignored) := by
  intro c hc _
  exact legal_low hc (by decide) (by decide)
theorem jobEnd (ignored : BitVec 28) : Statement (.jobEnd ignored) := by
  intro c hc _
  exact legal_low hc (by decide) (by decide)
theorem softReset (ignored : BitVec 28) : Statement (.softReset ignored) := by
  intro c hc _
  exact legal_low hc (by decide) (by decide)
theorem reserved4 (ignored : BitVec 28) : Statement (.reserved4 ignored) := by
  intro c hc _
  exact legal_low hc (by decide) (by decide)
theorem reserved5 (ignored : BitVec 28) : Statement (.reserved5 ignored) := by
  intro c hc _
  exact legal_low hc (by decide) (by decide)
theorem reserved6 (ignored : BitVec 28) : Statement (.reserved6 ignored) := by
  intro c hc _
  exact legal_low hc (by decide) (by decide)
theorem reserved7 (ignored : BitVec 28) : Statement (.reserved7 ignored) := by
  intro c hc _
  exact legal_low hc (by decide) (by decide)
theorem reserved8 (ignored : BitVec 28) : Statement (.reserved8 ignored) := by
  intro c hc _
  exact legal_low hc (by decide) (by decide)
theorem reserved9 (ignored : BitVec 28) : Statement (.reserved9 ignored) := by
  intro c hc _
  exact legal_low hc (by decide) (by decide)
theorem reservedA (ignored : BitVec 28) : Statement (.reservedA ignored) := by
  intro c hc _
  exact legal_low hc (by decide) (by decide)
theorem reservedB (ignored : BitVec 28) : Statement (.reservedB ignored) := by
  intro c hc _
  exact legal_low hc (by decide) (by decide)
theorem reservedC (ignored : BitVec 28) : Statement (.reservedC ignored) := by
  intro c hc _
  exact legal_low hc (by decide) (by decide)
theorem reservedD (ignored : BitVec 28) : Statement (.reservedD ignored) := by
  intro c hc _
  exact legal_low hc (by decide) (by decide)
theorem reservedE (ignored : BitVec 28) : Statement (.reservedE ignored) := by
  intro c hc _
  exact legal_low hc (by decide) (by decide)
theorem pix (r g b a : Byte) : Statement (.pix r g b a) := by
  intro c hc _
  exact legal_low hc (by decide) (by decide)
theorem reduce (r g b a : Byte) : Statement (.reduce r g b a) := by
  intro c _ _
  exact ⟨by decide, by decide⟩
theorem cdf : Statement .cdf := by
  intro c _ _
  exact ⟨by decide, by decide⟩
theorem remap : Statement .remap := by
  intro c _ _
  exact ⟨by decide, by decide⟩
theorem dither : Statement .dither := by
  intro c _ _
  exact ⟨by decide, by decide⟩
theorem binarize : Statement .binarize := by
  intro c _ _
  exact ⟨by decide, by decide⟩
theorem pack : Statement .pack := by
  intro c _ _
  exact ⟨by decide, by decide⟩
theorem emit : Statement .emit := by
  intro c _ _
  exact ⟨by decide, by decide⟩
theorem initEmit : Statement .initEmit := by
  intro c _ _
  exact ⟨by decide, by decide⟩
theorem cutEmit : Statement .cutEmit := by
  intro c _ _
  exact ⟨by decide, by decide⟩
theorem frameInit : Statement .frameInit := by
  intro c _ _
  exact List.ne_nil_of_length_pos (by simp)
theorem frameMargin (offset : BitVec 16) : Statement (.frameMargin offset) := by
  intro c _ _
  exact List.ne_nil_of_length_pos (by simp)
theorem frameStore (canvasW k : BitVec 16) (payload : List Byte) : Statement (.frameStore canvasW k payload) := by
  intro c _ _
  exact List.ne_nil_of_length_pos (by simp [storeFrame])
theorem frameFlush : Statement .frameFlush := by
  intro c _ _
  exact List.ne_nil_of_length_pos (by simp)
theorem frameCut : Statement .frameCut := by
  intro c _ _
  exact List.ne_nil_of_length_pos (by simp)

end Sys2Proof.Laws.EncodesLegally
end

