-- ==== Sys2Proof/Laws/Step.lean ====
section
/-! SUPPORT. All that a step can do, said once: which moves there are, and what an access of the host can
change. -/

namespace Sys2Proof.Machine

/-! The moves. -/

/-- `u` is `s` but for what choosing a move changes: the outside world's fields, and a held write let go. -/
structure SameEngine (s u : State) : Prop where
  eq : u = { s with held := u.held, host := u.host, turns := u.turns, draws := u.draws }
  held : u.held = s.held ∨ u.held = none

theorem SameEngine.refl (s : State) : SameEngine s s := ⟨rfl, .inl rfl⟩

theorem SameEngine.of_turns {s u : State} {ts : List Turn} (h : SameEngine { s with turns := ts } u) :
    SameEngine s u := ⟨by rw [h.eq], h.held⟩

theorem SameEngine.draws {s u : State} (h : SameEngine s u) (d : Nat) : SameEngine s { u with draws := d } :=
  ⟨by rw [h.eq], h.held⟩

/-- The moves there are in `s`, with the state each is made in. -/
inductive MoveOk (s : State) : Move → State → Prop where
  | wait {u : State} : MoveOk s .wait u
  | powerOn {u : State} : MoveOk s .powerOn u
  | complete {u : State} (i : Instr) (held : s.held = some i) (busy : s.busy = false) (free : u.held = none) :
      MoveOk s (.complete i) u
  | access {u : State} (a : BusAccess) (free : s.held = none) (free' : u.held = none) : MoveOk s (.access a) u
  | operate {u : State} (busy : s.busy = true) (held : u.held = s.held) : MoveOk s (.operate s.phase.code) u

theorem MoveOk.of_turns {s u : State} {ts : List Turn} {m : Move} (h : MoveOk { s with turns := ts } m u) :
    MoveOk s m u := by
  cases h with
  | wait => exact .wait
  | powerOn => exact .powerOn
  | complete i a b c => exact .complete i a b c
  | access x a b => exact .access x a b
  | operate a b => exact .operate a b

theorem MoveOk.draws {s u : State} {m : Move} (h : MoveOk s m u) (d : Nat) : MoveOk s m { u with draws := d } := by
  cases h with
  | wait => exact .wait
  | powerOn => exact .powerOn
  | complete i a b c => exact .complete i a b c
  | access x a b => exact .access x a b
  | operate a b => exact .operate a b

theorem hostMove_cases {s : State} {m : Move × State} (h : hostMove s = some m) :
    SameEngine s m.2 ∧ MoveOk s m.1 m.2 := by
  unfold hostMove at h
  split at h
  · rename_i i hi
    split at h
    · cases h
    · cases h
      exact ⟨⟨rfl, .inr rfl⟩, .complete i hi (by simpa using ‹¬ s.busy = true›) rfl⟩
  · rename_i hi
    split at h
    · cases h
    · cases h
      exact ⟨⟨by simp, .inr hi⟩, .access _ hi hi⟩

theorem engineMove_cases {s : State} {m : Move × State} (h : engineMove s = some m) :
    SameEngine s m.2 ∧ MoveOk s m.1 m.2 := by
  unfold engineMove at h
  split at h
  · cases h
    exact ⟨.refl _, .operate ‹_› rfl⟩
  · cases h

theorem preferred_cases {s : State} {f g : Option (Move × State)}
    (hf : ∀ m, f = some m → SameEngine s m.2 ∧ MoveOk s m.1 m.2)
    (hg : ∀ m, g = some m → SameEngine s m.2 ∧ MoveOk s m.1 m.2) :
    SameEngine s (preferred f g s).2 ∧ MoveOk s (preferred f g s).1 (preferred f g s).2 := by
  cases f with
  | some m => exact hf m rfl
  | none =>
    cases g with
    | some m => exact hg m rfl
    | none => exact ⟨.refl s, .wait⟩

/-- What the next move can be. -/
theorem chooseMove_cases (s : State) :
    SameEngine s (chooseMove s).2 ∧ MoveOk s (chooseMove s).1 (chooseMove s).2 := by
  have lift : ∀ {ts : List Turn} {m : Move × State},
      (SameEngine { s with turns := ts } m.2 ∧ MoveOk { s with turns := ts } m.1 m.2) →
      SameEngine s m.2 ∧ MoveOk s m.1 m.2 := fun h => ⟨h.1.of_turns, h.2.of_turns⟩
  unfold chooseMove
  split
  · exact ⟨⟨rfl, .inl rfl⟩, .powerOn⟩
  · exact lift (preferred_cases (fun _ => hostMove_cases) fun _ => engineMove_cases)
  · exact lift (preferred_cases (fun _ => engineMove_cases) fun _ => hostMove_cases)
  · split
    · exact preferred_cases (fun _ => engineMove_cases) fun m h => by cases h
    · rename_i h hh
      split
      · exact hostMove_cases hh
      · rename_i e he
        split
        · exact ⟨(hostMove_cases hh).1.draws _, (hostMove_cases hh).2.draws _⟩
        · exact ⟨(engineMove_cases he).1.draws _, (engineMove_cases he).2.draws _⟩

/-! What is run. -/

/-- The instructions a bus access decodes to. -/
def fromHost (i : Instr) : Bool :=
  match i with
  | .reduce _ _ _ _ | .cdf | .remap | .dither | .binarize | .pack | .emit | .initEmit | .cutEmit
  | .frameInit | .frameMargin _ | .frameStore _ _ _ | .frameFlush | .frameCut => false
  | _ => true

theorem fromHost_of_isHoldable {i : Instr} (h : isHoldable i = true) : fromHost i = true := by
  cases i <;> first | rfl | exact absurd h Bool.false_ne_true

theorem decodeCmd_fromHost (v : Word) : fromHost (decodeCmd v) = true := by
  unfold decodeCmd
  simp only
  split <;> rfl

theorem decode_bus_fromHost {c : Config} {a : BusAccess} {i : Instr} (h : decode c (.bus a) = .ok i) :
    fromHost i = true := by
  simp only [decode, decodeBus] at h
  split at h
  · cases h
  split at h
  · cases h
  split at h
  · cases h
  split at h
  · cases h
    unfold decodeWrite
    repeat' split
    all_goals first | rfl | exact decodeCmd_fromHost _
  · cases h
    unfold decodeRead
    repeat' split
    all_goals rfl

/-- The operation of a busy phase (30_encoding.md R112). -/
def phaseOp (p : Phase) : Instr :=
  match p with
  | .cdf => .cdf
  | .remap => .remap
  | .dither => .dither
  | .binarize => .binarize
  | .pack => .pack
  | .emit => .emit
  | .init => .initEmit
  | .cut => .cutEmit
  | .idle | .ready | .load | .halted => .nop 0

theorem decode_phaseOp (c : Config) (p : Phase) (h : p.busy = true) :
    decode c (.phase p.code 0) = .ok (phaseOp p) := by
  cases p <;> first | rfl | exact absurd h Bool.false_ne_true

/-- All that a step can be: waiting, a power-on reset, a held write or an access of the host run, an access
refused, or the operation of the busy phase. -/
inductive StepEffect (s u : State) : Result → Prop where
  | wait : StepEffect s u (.next u)
  | powerOn : StepEffect s u (.next (resetEngine u))
  | complete (i : Instr) (held : s.held = some i) (busy : s.busy = false) (free : u.held = none) :
      StepEffect s u (exec i u)
  | access (i : Instr) (host : fromHost i = true) (free : s.held = none) (free' : u.held = none) :
      StepEffect s u (exec i u)
  | refused (e : DecodeError) : StepEffect s u (.refused (refusalOf e))
  | operate (busy : s.busy = true) (held : u.held = s.held) : StepEffect s u (exec (phaseOp s.phase) u)

/-- All that a step can do. -/
theorem step_cases (s : State) : ∃ u, SameEngine s u ∧ StepEffect s u (step s) := by
  obtain ⟨same, move⟩ := chooseMove_cases s
  refine ⟨_, same, ?_⟩
  unfold step
  generalize (chooseMove s).1 = m at move
  cases move with
  | wait => exact .wait
  | powerOn => exact .powerOn
  | complete i held busy free => exact .complete i held busy free
  | access a free free' =>
    simp only [makeMove, runFetched]
    split
    · exact .access _ (decode_bus_fromHost ‹_›) free free'
    · exact .refused _
  | operate busy held =>
    simp only [makeMove, runFetched]
    rw [decode_phaseOp _ _ busy]
    exact .operate busy held

/-! What an access of the host can do. -/

/-- All that an access of the host, or a held write, can do. -/
inductive HostEffect (i : Instr) (u : State) : State → Prop where
  | stored (ctrl thresh width height rdata : Word)
      (reserved : u.ReservedZero → ctrl &&& ~~~ctrlMask = 0 ∧ thresh &&& ~~~threshMask = 0 ∧
        width &&& ~~~sizeMask = 0 ∧ height &&& ~~~sizeMask = 0) :
      HostEffect i u
        { u with ctrl := ctrl, thresh := thresh, width := width, height := height, rdata := rdata }
  | reset : HostEffect i u (resetEngine u)
  | held (busy : u.busy = true) (holdable : isHoldable i = true) : HostEffect i u { u with held := some i }
  | raised (busy : u.busy = false) (err : u.err = false) : HostEffect i u (raiseErr .commandError u)
  | started (busy : u.busy = false) (err : u.err = false) : HostEffect i u (startJob u)
  | admitted (busy : u.busy = false) (err : u.err = false) : HostEffect i u (admitImage u)
  | ended (busy : u.busy = false) (err : u.err = false) : HostEffect i u (endJob u)
  | reduced {t : State} (r g b a : Byte) (err : u.err = false) (phase : u.phase = .load)
      (run : reduceStep r g b a u = .next t) : HostEffect i u t

theorem HostEffect.same (i : Instr) (u : State) : HostEffect i u u :=
  HostEffect.stored u.ctrl u.thresh u.width u.height u.rdata fun z => ⟨z.1, z.2, z.3, z.4⟩

theorem HostEffect.read (i : Instr) (u : State) (v : Word) : HostEffect i u (returnData v u) :=
  HostEffect.stored u.ctrl u.thresh u.width u.height v fun z => ⟨z.1, z.2, z.3, z.4⟩

/-- A masked value has none of the bits outside the mask. -/
theorem mask_and (d mask : Word) : (d &&& mask) &&& ~~~mask = 0 := by
  ext j hj
  simp

theorem HostEffect.of_gated {i : Instr} {u t : State} {run : State → Result} (hh : isHoldable i = true)
    (h : gated i run u = .next t)
    (hr : u.busy = false → u.err = false → run u = .next t → HostEffect i u t) : HostEffect i u t := by
  rcases gated_cases h with ⟨a, rfl⟩ | ⟨_, _, rfl⟩ | ⟨a, b, c⟩
  · exact .held a hh
  · exact .same i t
  · exact hr a b c

theorem host_exec_cases {i : Instr} {u t : State} (hi : fromHost i = true) (h : exec i u = .next t) :
    HostEffect i u t := by
  cases i
  case wrCtrl d =>
    cases h
    exact .stored _ u.thresh u.width u.height u.rdata fun z => ⟨mask_and _ _, z.2, z.3, z.4⟩
  case wrThresh d =>
    cases h
    exact .stored u.ctrl _ u.width u.height u.rdata fun z => ⟨z.1, mask_and _ _, z.3, z.4⟩
  case wrWidth d =>
    cases h
    exact .stored u.ctrl u.thresh _ u.height u.rdata fun z => ⟨z.1, z.2, mask_and _ _, z.4⟩
  case wrHeight d =>
    cases h
    exact .stored u.ctrl u.thresh u.width _ u.rdata fun z => ⟨z.1, z.2, z.3, mask_and _ _⟩
  case softReset => cases h; exact .reset
  case wrStatus | wrEffThresh | wrUnmapped => cases h; exact .same _ _
  case rdCtrl | rdThresh | rdWidth | rdHeight | rdCmd | rdStatus | rdPixin | rdEffThresh | rdUnmapped =>
    cases h; exact .read _ _ _
  case nop x =>
    exact .of_gated (i := .nop x) (run := fun s => .next s) rfl h fun _ _ h => by cases h; exact .same _ _
  case jobStart x =>
    exact .of_gated (i := .jobStart x) (run := fun s => .next (startJob s)) rfl h fun a b h => by
      cases h; exact .started a b
  case image x =>
    exact .of_gated (i := .image x) (run := fun s => .next (admitImage s)) rfl h fun a b h => by
      cases h; exact .admitted a b
  case jobEnd x =>
    exact .of_gated (i := .jobEnd x) (run := fun s => .next (endJob s)) rfl h fun a b h => by
      cases h; exact .ended a b
  case reserved4 | reserved5 | reserved6 | reserved7 | reserved8 | reserved9 | reservedA | reservedB
      | reservedC | reservedD | reservedE =>
    exact .of_gated (run := fun s => .next (raiseErr .commandError s)) rfl h fun a b h => by
      cases h; exact .raised a b
  case pix r g b a =>
    refine .of_gated (i := .pix r g b a)
      (run := fun s => if s.phase ≠ .load then .next (raiseErr .commandError s) else reduceStep r g b a s)
      rfl h fun x y h => ?_
    split at h
    · cases h; exact .raised x y
    · exact .reduced r g b a y (by simpa using ‹¬ u.phase ≠ .load›) h
  all_goals exact absurd hi Bool.false_ne_true

end Sys2Proof.Machine
end

