-- ==== Sys2Proof/Tests/Slice0.lean ====
section
/-! SUPPORT. Tests: the checks of WellFormed refuse, words written out from the encodings decode, one step of
each instruction gives the spec's own vectors (95_test_vectors.md), and every statement with hypotheses has a
witness. -/

namespace Sys2Proof.Tests

open Sys2Proof Sys2Proof.Machine Sys2Proof.Claims

set_option Elab.async false

/-! WellFormed refuses ill-formed terms: one for each check. -/

theorem test_unmapped_misaligned_refused : (Instr.wrUnmapped 0x22 0).wellFormed Config.reference = false := by decide
theorem test_unmapped_low_refused : (Instr.rdUnmapped 0x1C).wellFormed Config.reference = false := by decide
theorem test_unmapped_outside_refused :
    (Instr.rdUnmapped 0x40).wellFormed { Config.reference with regSize := 0x40 } = false := by decide
theorem test_margin_zero_refused : (Instr.frameMargin 0).wellFormed Config.reference = false := by decide
theorem test_margin_uneven_refused : (Instr.frameMargin 12).wellFormed Config.reference = false := by decide
theorem test_margin_large_refused : (Instr.frameMargin 512).wellFormed Config.reference = false := by decide
theorem test_store_uneven_refused : (Instr.frameStore 12 1 [0]).wellFormed Config.reference = false := by decide
theorem test_store_narrow_refused : (Instr.frameStore 0 1 []).wellFormed Config.reference = false := by decide
theorem test_store_wide_refused :
    (Instr.frameStore 520 1 (List.replicate 65 0)).wellFormed Config.reference = false := by decide
theorem test_store_no_rows_refused : (Instr.frameStore 8 0 []).wellFormed Config.reference = false := by decide
theorem test_store_tall_refused :
    (Instr.frameStore 8 5 [0, 0, 0, 0, 0]).wellFormed { Config.reference with gs8lMaxY := 4 } = false := by decide
theorem test_store_short_refused : (Instr.frameStore 16 2 [0, 0, 0]).wellFormed Config.reference = false := by decide

/-! Decoding, every constructor, on words written out from the encodings. -/

/-- What the reference machine's decoder answers for a write of `v` at `off`, a read at `off`, a phase code
and the bytes of a frame. -/
def onWrite (off v : Word) : Option Instr := (decode Config.reference (.bus ⟨.write, .word, off, v⟩)).toOption
def onRead (off : Word) : Option Instr := (decode Config.reference (.bus ⟨.read, .word, off, 0⟩)).toOption
def onPhase (code : BitVec 4) (pixel : Word) : Option Instr :=
  (decode Config.reference (.phase code pixel)).toOption
def onFrame (bytes : List Byte) : Option Instr := (decode Config.reference (.frame bytes)).toOption

/-- 10_state.md R32, 30_encoding.md R91, R113. -/
theorem test_decode_writes :
    onWrite 0x00 0x9 = some (.wrCtrl 9) ∧ onWrite 0x04 0x80 = some (.wrThresh 0x80) ∧
    onWrite 0x08 0x208 = some (.wrWidth 520) ∧ onWrite 0x0C 0x8 = some (.wrHeight 8) ∧
    onWrite 0x14 0xFFFFFFFF = some (.wrStatus 0xFFFFFFFF) ∧
    onWrite 0x1C 0x1 = some (.wrEffThresh 1) ∧ onWrite 0x20 0x7 = some (.wrUnmapped 0x20 7) := by decide

/-- 10_state.md R32, 30_encoding.md R91. -/
theorem test_decode_reads :
    onRead 0x00 = some .rdCtrl ∧ onRead 0x04 = some .rdThresh ∧ onRead 0x08 = some .rdWidth ∧
    onRead 0x0C = some .rdHeight ∧ onRead 0x10 = some .rdCmd ∧ onRead 0x14 = some .rdStatus ∧
    onRead 0x18 = some .rdPixin ∧ onRead 0x1C = some .rdEffThresh ∧
    onRead 0xFFFFFFFC = some (.rdUnmapped 0xFFFFFFFC) := by decide

/-- 30_encoding.md R95, R96: bits 3:0 select, bits 31:4 are ignored. -/
theorem test_decode_commands :
    onWrite 0x10 0x00000000 = some (.nop 0) ∧ onWrite 0x10 0x12345671 = some (.jobStart 0x1234567) ∧
    onWrite 0x10 0x00000002 = some (.image 0) ∧ onWrite 0x10 0x00000003 = some (.jobEnd 0) ∧
    onWrite 0x10 0xFFFFFFFF = some (.softReset 0xFFFFFFF) := by decide

/-- 30_encoding.md R96, the reserved codes. -/
theorem test_decode_reserved :
    onWrite 0x10 0x4 = some (.reserved4 0) ∧ onWrite 0x10 0x5 = some (.reserved5 0) ∧
    onWrite 0x10 0x6 = some (.reserved6 0) ∧ onWrite 0x10 0x7 = some (.reserved7 0) ∧
    onWrite 0x10 0x8 = some (.reserved8 0) ∧ onWrite 0x10 0x9 = some (.reserved9 0) ∧
    onWrite 0x10 0xA = some (.reservedA 0) ∧ onWrite 0x10 0xB = some (.reservedB 0) ∧
    onWrite 0x10 0xC = some (.reservedC 0) ∧ onWrite 0x10 0xD = some (.reservedD 0) ∧
    onWrite 0x10 0xE = some (.reservedE 0) := by decide

/-- 30_encoding.md R93: r in the lowest lane. -/
theorem test_decode_pixel :
    onWrite 0x18 0xFF000000 = some (.pix 0 0 0 255) ∧ onWrite 0x18 0x04030201 = some (.pix 1 2 3 4) := by decide

/-- 30_encoding.md R112. -/
theorem test_decode_phases :
    onPhase 0x2 0x04030201 = some (.reduce 1 2 3 4) ∧ onPhase 0x3 0 = some .cdf ∧ onPhase 0x4 0 = some .remap ∧
    onPhase 0x5 0 = some .dither ∧ onPhase 0x6 0 = some .binarize ∧ onPhase 0x7 0 = some .pack ∧
    onPhase 0x8 0 = some .emit ∧ onPhase 0x9 0 = some .initEmit ∧ onPhase 0xA 0 = some .cutEmit := by decide

/-- 30_encoding.md R112: the codes that name no operation. -/
theorem test_decode_phase_codes_refused :
    onPhase 0x0 0 = none ∧ onPhase 0x1 0 = none ∧ onPhase 0xB 0 = none ∧ onPhase 0xF 0 = none := by decide

/-- 30_encoding.md R101, R102, R105, R106, R110. -/
theorem test_decode_frames :
    onFrame [0x1B, 0x40] = some .frameInit ∧ onFrame [0x1D, 0x4C, 0xF0, 0x01] = some (.frameMargin 496) ∧
    onFrame [0x1D, 0x28, 0x4C, 0x02, 0x00, 0x30, 0x32] = some .frameFlush ∧
    onFrame [0x1D, 0x56, 0x41, 0x00] = some .frameCut := by decide

/-- 95_test_vectors.md P2, its store frame (30_encoding.md R103, R104). -/
theorem test_decode_store :
    onFrame [0x1D, 0x38, 0x4C, 0x0C, 0x00, 0x00, 0x00, 0x30, 0x70, 0x30, 0x01, 0x01, 0x31, 0x08, 0x00, 0x02,
      0x00, 0x60, 0x20] = some (.frameStore 8 2 [0x60, 0x20]) := by decide

/-- A frame cut short, a margin of 0, and a store header with a wrong length are no frames. -/
theorem test_decode_no_frame :
    onFrame [0x1B] = none ∧ onFrame [0x1D, 0x4C, 0x00, 0x00] = none ∧
    onFrame [0x1D, 0x38, 0x4C, 0x0D, 0x00, 0x00, 0x00, 0x30, 0x70, 0x30, 0x01, 0x01, 0x31, 0x08, 0x00, 0x02,
      0x00, 0x60, 0x20] = none := by decide

/-- 20_memory.md R77, R78. -/
theorem test_decode_access_refused :
    decode Config.reference (.bus ⟨.write, .byte, 0x00, 1⟩) = .error .narrowAccess ∧
    decode Config.reference (.bus ⟨.read, .word, 0x02, 0⟩) = .error .misalignedAccess ∧
    decode { Config.reference with regSize := 0x20 } (.bus ⟨.read, .word, 0x20, 0⟩) = .error .outsideWindow := by
  decide

/-- A view of a result that is a next state. -/
def view {α : Type} (f : State → α) (r : Result) : Option α :=
  match r with
  | .next t => some (f t)
  | .fault _ => none
  | .refused _ => none

/-- The words of the table, as log 7 reads them. -/
theorem test_table_words :
    decodeTableWord 8 0x3 = some (.jobEnd 0) ∧ decodeTableWord 32 0x0C = some (.wrHeight 0) ∧
    decodeTableWord 32 0x18 = some .rdPixin ∧ decodeTableWord 32 0x20 = some (.wrUnmapped 0x20 0) ∧
    decodeTableWord 32 0xFF000001 = some (.pix 1 0 0 255) ∧ decodeTableWord 16 0x401B = some .frameInit := by decide

/-- From reset, the placed word is what the first step runs. -/
theorem test_placed_word_runs :
    view (·.phase) (step (State.reset.withFetchWord 8 0x1)) = some .init ∧
    view statusWord (step (State.reset.withFetchWord 32 0x14)) = some 0 := by decide

/-! One step, on the vectors of 95_test_vectors.md. -/

/-- The first `n` cells of a buffer. -/
def cellsOf {w : Nat} (b : Buf w) (n : Nat) : List (BitVec w) := b.slice 0 n

/-- A buffer whose first cells are given. -/
def bufOf {w : Nat} (l : List (BitVec w)) : Buf w := ⟨0, (List.range l.length).zip l⟩

/-- READY in a job with this configuration (H10 and the vectors that start there). -/
def readyState (cfg : JobCfg) (w h : Word) : State :=
  { State.reset with cfg := cfg, phase := .ready, jobActive := true, width := w, height := h }

/-- The configuration of CTRL and a threshold. -/
def cfgOf (ctrl thr : Word) : JobCfg := jobCfgOf ctrl thr

/-- A `w` by `h` image with this lightness field, at the start of a phase. -/
def imageState (cfg : JobCfg) (p : Phase) (w h : Nat) (lf : List Byte) : State :=
  { readyState cfg 0 0 with
    imgW := BitVec.ofNat 16 w, imgH := BitVec.ofNat 16 h, n := BitVec.ofNat 26 (w * h)
    canvasW := BitVec.ofNat 10 (canvasWidth w), stride := BitVec.ofNat 7 (canvasWidth w / 8)
    offset := BitVec.ofNat 10 (offsetDots cfg.align cfg.rotate (canvasWidth w))
    li := BitVec.ofNat 26 lf.length, phase := p, lf := bufOf lf, hist := (bufOf []).zero 256 }

/-- STATUS after an instruction that goes on. -/
def statusAfter (i : Instr) (s : State) : Option Word := view statusWord (exec i s)

/-- A histogram that counts these values, and the cumulative distribution of these values. -/
def countsOf (l : List Byte) : Buf 32 :=
  bufOf ((List.range 256).map fun v => BitVec.ofNat 32 (l.countP fun x => x.toNat == v))
def cdfOf (l : List Byte) : Buf 32 :=
  bufOf ((List.range 256).map fun v => BitVec.ofNat 32 (l.countP fun x => decide (x.toNat ≤ v)))

/-- H3, H4, H5. -/
theorem test_writes_mask :
    view (·.ctrl) (exec (.wrCtrl 0xFFFFFFFF) State.reset) = some 0x1F ∧
    view (·.thresh) (exec (.wrThresh 0x1FF) State.reset) = some 0xFF ∧
    view (·.width) (exec (.wrWidth 0x00012345) State.reset) = some 0x2345 ∧
    view (·.height) (exec (.wrHeight 0x00012345) State.reset) = some 0x2345 := by decide

/-- H7, 10_state.md R32: ignored writes. -/
theorem test_writes_ignored :
    statusAfter (.wrStatus 0xFFFFFFFF) State.reset = some 0 ∧
    view (·.effThr) (exec (.wrEffThresh 0xFFFFFFFF) State.reset) = some 0 ∧
    view (fun t => [t.ctrl, t.thresh, t.width, t.height]) (exec (.wrUnmapped 0x20 0xFFFFFFFF) State.reset) =
      some [0, 0x80, 0, 0] := by decide

/-- H1, H2, H6: the reads after reset (L2.9). -/
theorem test_reads_after_reset :
    ([.rdCtrl, .rdThresh, .rdWidth, .rdHeight, .rdCmd, .rdStatus, .rdPixin, .rdEffThresh, .rdUnmapped 0x20].map
      fun i => view (·.rdata) (exec i State.reset)) =
    [some 0, some 0x80, some 0, some 0, some 0, some 0, some 0, some 0, some 0] := by decide

/-- Reads that are not 0: values set in the state, STATUS `0x0000016F` (H22) and `0x00000022` (H10). -/
theorem test_reads_values :
    view (·.rdata) (exec .rdCtrl { State.reset with ctrl := 0x1F }) = some 0x1F ∧
    view (·.rdata) (exec .rdWidth { State.reset with width := 16 }) = some 16 ∧
    view (·.rdata) (exec .rdHeight { State.reset with height := 8 }) = some 8 ∧
    view (·.rdata) (exec .rdEffThresh { State.reset with effThr := 0x7F }) = some 0x7F ∧
    view (·.rdata) (exec .rdStatus (halted .imageTooWide (readyState (cfgOf 0 0x80) 0 0))) = some 0x16F ∧
    view (·.rdata) (exec .rdStatus (imageState (cfgOf 0 0x80) .load 1 1 [])) = some 0x22 ∧
    view (·.rdata) (exec (.rdUnmapped 0x20) { State.reset with rdata := 9 }) = some 0 := by decide

/-- H9 and H26: only bits 3:0 decode, and CTRL is latched. -/
theorem test_job_start :
    view (fun t => (statusWord t, t.cfg))
      (exec (.jobStart 0x1234567) { State.reset with ctrl := 0x1A, thresh := 0x40 }) =
    some (0x19, { cut := false, photo := true, rotate := false, align := .right, thr := 0x40 }) := by decide

/-- H15 to H19, and the eleven reserved codes (H18): CommandError outside the phase a command needs. -/
theorem test_command_errors :
    statusAfter (.image 0) State.reset = some 0x44F ∧ statusAfter (.jobEnd 0) State.reset = some 0x44F ∧
    statusAfter (.jobStart 0) (readyState (cfgOf 0 0x80) 0 0) = some 0x46F ∧
    statusAfter (.pix 0 0 0 255) (readyState (cfgOf 0 0x80) 0 0) = some 0x46F ∧
    (reservedCommands 0).map (fun i => statusAfter i (readyState (cfgOf 0 0x80) 0 0)) =
      List.replicate 11 (some 0x46F) := by decide

/-- H10, H13: the geometry of an admitted image, at both ends of the width. -/
theorem test_image_admitted :
    view (fun t => (statusWord t, [t.li, t.n], [t.canvasW, t.offset], t.stride))
      (exec (.image 0) (readyState (cfgOf 0 0x80) 16 8)) = some (0x22, [0, 128], [16, 0], 2) ∧
    view (fun t => (statusWord t, [t.li, t.n], [t.canvasW, t.offset], t.stride))
      (exec (.image 0) (readyState (cfgOf 0x18 0x80) 512 1)) = some (0x22, [0, 512], [512, 0], 64) := by decide +kernel

/-- H11, H12, H14, X1, X3: the order of IMAGE's checks. -/
theorem test_image_errors :
    statusAfter (.image 0) (readyState (cfgOf 0 0x80) 0 5) = some 0x46F ∧
    statusAfter (.image 0) (readyState (cfgOf 0 0x80) 600 0) = some 0x46F ∧
    statusAfter (.image 0) (readyState (cfgOf 0 0x80) 513 1) = some 0x16F ∧
    statusAfter (.image 0) (readyState (cfgOf 0 0x80) 520 8) = some 0x16F ∧
    statusAfter (.image 0) { readyState (cfgOf 0 0x80) 16 8 with conf := { Config.reference with lfCap := 100 } } =
      some 0x26F := by decide +kernel

/-- H20, H21. -/
theorem test_job_end :
    statusAfter (.jobEnd 0) (readyState (cfgOf 0 0x80) 0 0) = some 0 ∧
    view (·.phase) (exec (.jobEnd 0) (readyState (cfgOf 1 0x80) 0 0)) = some .cut := by decide

/-- H22, H25: commands ignored after an error, held while busy. -/
theorem test_nop_held_and_ignored :
    view (·.held) (exec (.nop 0) { State.reset with phase := .pack }) = some (some (.nop 0)) ∧
    statusAfter (.nop 0) (halted .imageTooWide (readyState (cfgOf 0 0x80) 0 0)) = some 0x16F := by decide

/-- H23: out of HALTED, with THRESH back at 0x80 and the stream untouched. -/
theorem test_soft_reset :
    view (fun t => (statusWord t, t.thresh, t.ctrl, t.width, t.out))
      (exec (.softReset 0) { halted .sinkWriteFailure (readyState (cfgOf 0 0x80) 3 2) with
        ctrl := 7, thresh := 9, out := [0x1B] }) = some (0, 0x80, 0, 0, [0x1B]) := by decide

/-- L2.2: the golden vectors of the ColorReducer. -/
theorem test_reduce_vectors :
    ([(0, 0, 0, 255), (255, 255, 255, 255), (1, 2, 3, 0), (0, 0, 0, 0), (1, 1, 1, 255), (128, 128, 128, 255),
      (255, 0, 0, 255), (0, 255, 0, 255), (0, 0, 255, 255), (200, 100, 50, 128), (100, 100, 100, 200),
      (0, 0, 0, 128), (255, 255, 255, 128), (128, 0, 128, 64), (10, 200, 30, 255), (64, 64, 64, 255),
      (118, 118, 118, 255), (119, 119, 119, 255), (188, 188, 188, 255), (192, 192, 192, 255),
      (254, 254, 254, 255)].map fun p : Byte × Byte × Byte × Byte =>
        reducePixel Config.reference p.1 p.2.1 p.2.2.1 p.2.2.2) =
    [0, 255, 255, 255, 0, 138, 137, 224, 81, 195, 143, 137, 255, 207, 180, 66, 128, 129, 196, 200, 254] := by
  decide +kernel

/-- L2.2, corner cases: truncation in compositing and in luma. -/
theorem test_comp_and_luma_truncate : comp 1 128 = 127 ∧ luma 1 1 0 = 0 ∧ luma 197 114 82 = 129 := by decide +kernel

/-- L2.2, histogram side effect, its third pixel, which ends LOAD of a 3x1 image in photo mode. -/
theorem test_pix_counts :
    view (fun t => (cellsOf t.lf 3, t.hist.read 0, t.hist.read 255, t.li, t.phase))
      (exec (.pix 255 255 255 255)
        { imageState (cfgOf 2 0x80) .load 3 1 [0, 0] with hist := countsOf [0, 0] }) =
    some ([0, 0, 255], 2, 1, 3, .cdf) := by decide +kernel

/-- L2.2: REDUCE of a grey 118 pixel in a 1x1 image without photo mode (B5). -/
theorem test_reduce_step :
    view (fun t => (cellsOf t.lf 1, t.hist.read 128, t.phase))
      (exec (.reduce 118 118 118 255) (imageState (cfgOf 0 0x80) .load 1 1 [])) =
    some ([128], 1, .binarize) := by decide +kernel

/-- T7: the CDF at the pixels' values, below and between them. -/
theorem test_cdf :
    view (fun t => ([9, 10, 15, 20, 30].map t.hist.read, t.phase))
      (exec .cdf { imageState (cfgOf 2 15) .cdf 4 1 [10, 10, 20, 30] with hist := countsOf [10, 10, 20, 30] }) =
    some ([0, 2, 2, 3, 4], .remap) := by decide +kernel

/-- What REMAP leaves in LF and EFF_THRESH of an image with this field and threshold. -/
def remapped (lf : List Byte) (thr : Word) : Option (List Byte × Byte) :=
  view (fun t => (cellsOf t.lf lf.length, t.effThr))
    (exec .remap { imageState (cfgOf 2 thr) .remap lf.length 1 lf with hist := cdfOf lf })

/-- T2, T3, T4. -/
theorem test_remap_ramp :
    remapped [50, 100, 150, 200] 128 = some ([63, 127, 191, 255], 127) ∧
    remapped [50, 100, 150, 200] 0 = some ([63, 127, 191, 255], 0) ∧
    remapped [50, 100, 150, 200] 255 = some ([63, 127, 191, 255], 255) := by decide +kernel

/-- T5, T6, T7. -/
theorem test_remap_uniform :
    remapped [7, 7, 7, 7, 7] 7 = some ([255, 255, 255, 255, 255], 255) ∧
    remapped [7, 7, 7, 7, 7] 6 = some ([255, 255, 255, 255, 255], 0) ∧
    remapped [10, 10, 20, 30] 15 = some ([127, 127, 191, 255], 127) := by decide +kernel

/-- What DITHER leaves in LF of a `w` by `h` image. -/
def dithered (w h : Nat) (thr : Byte) (lf : List Byte) : Option (List Byte) :=
  view (fun t => cellsOf t.lf lf.length) (exec .dither { imageState (cfgOf 2 0x80) .dither w h lf with effThr := thr })

/-- DT11 (clamping per contribution), DT12 (truncation), DT6, DT10. -/
theorem test_dither_small :
    dithered 2 2 128 [120, 136, 250, 250] = some [0, 255, 255, 255] ∧
    dithered 3 1 128 [100, 200, 250] = some [0, 255, 255] ∧
    dithered 3 2 50 [100, 100, 100, 100, 100, 100] = some [255, 255, 255, 255, 0, 0] ∧
    dithered 2 2 128 [128, 128, 128, 128] = some [0, 255, 255, 0] ∧
    cellsOf ([(0, 0), (1, 0)].foldl (ditherPixel 2 2 128) (bufOf [120, 136, 250, 250])) 4 = [0, 255, 242, 242] := by
  decide +kernel

/-- E5. -/
theorem test_dither_mid_grey :
    dithered 4 4 128 (List.replicate 16 128) =
      some [0, 255, 255, 0, 255, 0, 0, 255, 255, 0, 0, 255, 0, 255, 255, 0] := by decide +kernel

/-- L2.4, the table of error terms. -/
theorem test_dither_error :
    ditherError 144 255 = -13 ∧ ditherError 247 255 = -1 ∧ ditherError 248 255 = 0 ∧ ditherError 7 0 = 0 ∧
    ditherError 255 0 = 31 ∧ ditherError 212 255 = -5 := by decide

/-- What BINARIZE leaves in LF and EFF_THRESH. -/
def binarized (lf : List Byte) (thr : Word) : Option (List Byte × Byte) :=
  view (fun t => (cellsOf t.lf lf.length, t.effThr))
    (exec .binarize (imageState (cfgOf 0 thr) .binarize lf.length 1 lf))

/-- B1, B2, B3. -/
theorem test_binarize :
    binarized [0, 128, 129, 255] 0x80 = some ([0, 0, 255, 255], 0x80) ∧
    binarized [0, 1, 255] 0 = some ([0, 255, 255], 0) ∧
    binarized [0, 200, 255] 255 = some ([0, 0, 0], 255) := by decide +kernel

/-- What PACK leaves in CANVAS of a `w` by `h` image with these logical indices marked. -/
def packed (rotate : Bool) (w h : Nat) (marks : List Nat) : Option (List Byte) :=
  view (fun t => cellsOf t.canvas (canvasWidth w / 8 * h))
    (exec .pack (imageState { cfgOf 0 0x80 with rotate := rotate } .pack w h
      ((List.range (w * h)).map fun i => if marks.contains i then 0 else 255)))

/-- K1, K2, K5, K7, K9. -/
theorem test_pack :
    packed false 3 1 [0, 2] = some [0xA0] ∧ packed false 9 1 (List.range 9) = some [0xFF, 0x80] ∧
    packed false 8 1 [7] = some [0x01] ∧ packed false 9 2 (List.range 10) = some [0xFF, 0x80, 0x80, 0x00] ∧
    packed false 3 2 [0, 3, 4] = some [0x80, 0xC0] := by decide +kernel

/-- K3, K4, K6, K8, K10: rotated. -/
theorem test_pack_rotated :
    packed true 9 1 (List.range 9) = some [0xFF, 0x80] ∧ packed true 10 2 [0] = some [0x00, 0x00, 0x00, 0x40] ∧
    packed true 8 1 [7] = some [0x80] ∧ packed true 9 2 (List.range 10) = some [0x00, 0x80, 0xFF, 0x80] ∧
    packed true 3 2 [0, 3, 4] = some [0x60, 0x20] := by decide +kernel

/-- L2.6, the canvas widths and the offsets. -/
theorem test_geometry :
    [1, 8, 9, 16, 510, 512].map canvasWidth = [8, 8, 16, 16, 512, 512] ∧
    [8, 16, 24, 504, 512].map (offsetDots .center false) = [248, 248, 240, 0, 0] ∧
    [8, 16, 24, 504, 512].map (offsetDots .unset true) = [504, 496, 488, 8, 0] ∧
    [8, 16, 24, 504, 512].map (offsetDots .right false) = [504, 496, 488, 8, 0] ∧
    [8, 16, 24, 504, 512].map (offsetDots .unset false) = [0, 0, 0, 0, 0] := by decide

/-- What one operation sends with an accepting sink, and where the encoder then is. -/
def sends (i : Instr) (s : State) : Option (List Byte × EncPos) :=
  view (fun t => (t.out, t.pos)) (exec i { s with sink := [.accept] })

/-- H8, H21: the first bytes of INIT and CUT. -/
theorem test_init_and_cut :
    sends .initEmit { State.reset with phase := .init } = some ([0x1B], .inside .init [0x40]) ∧
    sends .cutEmit { readyState (cfgOf 1 0x80) 0 0 with phase := .cut } =
      some ([0x1D], .inside .cut [0x56, 0x41, 0x00]) := by decide

/-- E7: a rotated, unaligned 16x8 image starts with the margin frame of offset 496. -/
theorem test_emit_margin :
    sends .emit (imageState (cfgOf 4 0x80) .emit 16 8 []) = some ([0x1D], .inside .margin [0x4C, 0xF0, 0x01]) := by
  decide +kernel

/-- E6: the store frame of the 16x8 black image. -/
theorem test_emit_store :
    sends .emit { imageState (cfgOf 8 0x80) .emit 16 8 [] with canvas := bufOf (List.replicate 16 0xFF) } =
      some ([0x1D], .inside .store ([0x38, 0x4C, 0x1A, 0x00, 0x00, 0x00, 0x30, 0x70, 0x30, 0x01, 0x01, 0x31, 0x10,
        0x00, 0x08, 0x00] ++ List.replicate 16 0xFF)) := by decide +kernel

/-- X4, X5, X6: a failing sink, in the store header, in INIT and in CUT. -/
theorem test_sink_failures :
    view (fun t => (statusWord t, t.out)) (exec .emit { imageState (cfgOf 8 0x80) .emit 16 8 [] with
      canvas := bufOf (List.replicate 16 0xFF), out := [0x1B, 0x40], sink := [.fail] }) =
      some (0x36F, [0x1B, 0x40]) ∧
    view (fun t => (statusWord t, t.out)) (exec .initEmit { State.reset with
      phase := .init, out := [0x1B], pos := .inside .init [0x40], sink := [.fail] }) = some (0x34F, [0x1B]) ∧
    view (fun t => (statusWord t, t.out)) (exec .cutEmit { readyState (cfgOf 1 0x80) 0 0 with
      phase := .cut, out := [0x1D], pos := .inside .cut [0x56, 0x41, 0x00], sink := [.fail] }) =
      some (0x36F, [0x1D]) := by decide +kernel

/-- L2.7: the margin frames, and the largest store header (F3). -/
theorem test_frames :
    sends (.frameMargin 248) State.reset = some ([0x1D], .inside .margin [0x4C, 0xF8, 0x00]) ∧
    sends (.frameMargin 504) State.reset = some ([0x1D], .inside .margin [0x4C, 0xF8, 0x01]) ∧
    sends .frameInit State.reset = some ([0x1B], .inside .init [0x40]) ∧
    sends .frameFlush State.reset = some ([0x1D], .inside .flush [0x28, 0x4C, 0x02, 0x00, 0x30, 0x32]) ∧
    sends .frameCut State.reset = some ([0x1D], .inside .cut [0x56, 0x41, 0x00]) ∧
    storeHeader Config.reference (paramLength 1023 64) 512 1023 = [0x1D, 0x38, 0x4C, 0xCA, 0xFF, 0x00, 0x00, 0x30,
      0x70, 0x30, 0x01, 0x01, 0x31, 0x00, 0x02, 0xFF, 0x03] := by decide +kernel

/-- P2's store frame. -/
theorem test_frame_store :
    sends (.frameStore 8 2 [0x60, 0x20]) State.reset = some ([0x1D], .inside .store [0x38, 0x4C, 0x0C, 0x00, 0x00,
      0x00, 0x30, 0x70, 0x30, 0x01, 0x01, 0x31, 0x08, 0x00, 0x02, 0x00, 0x60, 0x20]) := by decide

/-- E4: chunk counts, and the last chunk's height. -/
theorem test_chunks :
    chunkCount 1023 8 = 1 ∧ chunkCount 1023 1023 = 1 ∧ chunkCount 1023 1024 = 2 ∧ chunkCount 1023 2500 = 3 ∧
    chunkCount 1023 65535 = 65 ∧ chunkCount 4 10 = 3 ∧ chunkHeight 1023 2500 2046 = 454 ∧
    chunkHeight 1023 65535 65472 = 63 ∧ chunkHeight 4 10 8 = 2 := by decide

/-! Witnesses: for each statement with hypotheses, a state and operands that meet all of them together, one for
each clause, at the boundary values of a range. -/

theorem table_chain_mono (v : Vector Byte 256) (h : v.toList.IsChain fun a b => a.toNat ≤ b.toNat) (i : Fin 255) :
    (v[i.val]).toNat ≤ (v[i.val + 1]).toNat := by
  have h' := List.isChain_iff_getElem.mp h i.val (by simp; omega)
  rwa [Vector.getElem_toList, Vector.getElem_toList] at h'

/-- The parameters of the reference machine meet the spec's constraints. -/
theorem witness_reference_wf : Config.reference.Wf where
  gs8l_pos := by decide
  gs8l_fits := by decide
  ltable_mono := table_chain_mono ltableCie (by decide +kernel)
  ltable_zero := by decide +kernel
  ltable_last := by decide +kernel
  lfCap_pos := by decide
  canvasCap_pos := by decide
  regSize_min := by decide

/-- A 1x1 image waiting for its pixel; marked and ready to pack; packed and ready to send. -/
def loadState : State := imageState (cfgOf 0 0x80) .load 1 1 []
def packState : State := imageState (cfgOf 0 0x80) .pack 1 1 [0]
def emitState : State := { imageState (cfgOf 0 0x80) .emit 1 1 [0] with canvas := bufOf [0x80] }

/-- In READY of a job, in INIT, and halted after a CommandError in READY. -/
def idleJob : State := readyState (cfgOf 0 0x80) 1 1
def initState : State := { State.reset with phase := .init }
def errorState : State := halted .commandError idleJob

theorem witness_admitted (p : Phase) (lf : List Byte) :
    (imageState (cfgOf 0 0x80) p 1 1 lf).Admitted where
  width_pos := Nat.one_pos
  height_pos := Nat.one_pos
  width_le := by show 1 ≤ 512; decide
  n_eq := rfl
  canvasW_eq := by show 8 = (1 + 7) / 8 * 8; decide
  stride_eq := by show 1 = 8 / 8; decide
  offset_eq := by show 0 = offsetDots .unset false 8; decide
  fits_lf := by show 1 ≤ 512 * 65535; decide
  fits_canvas := by show 1 ≤ 64 * 65535; decide

theorem witness_inv_load : loadState.Inv where
  conf_wf := witness_reference_wf
  reserved := ⟨by decide, by decide, by decide, by decide⟩
  lf_wf := by decide
  hist_wf := Buf.zero_wf (by decide) 256
  canvas_wf := by decide
  halted_iff := by decide
  errcode_iff := by decide
  job_flag := rfl
  held_ok := fun _ h => nomatch h
  geometry := fun _ => witness_admitted .load []
  progress := ⟨by decide, rfl⟩
  encoder := rfl

theorem witness_inv_pack : packState.Inv where
  conf_wf := witness_reference_wf
  reserved := ⟨by decide, by decide, by decide, by decide⟩
  lf_wf := by decide
  hist_wf := Buf.zero_wf (by decide) 256
  canvas_wf := by decide
  halted_iff := by decide
  errcode_iff := by decide
  job_flag := rfl
  held_ok := fun _ h => nomatch h
  geometry := fun _ => witness_admitted .pack [0]
  progress := rfl
  encoder := rfl

theorem witness_inv_init : initState.Inv where
  conf_wf := witness_reference_wf
  reserved := ⟨by decide, by decide, by decide, by decide⟩
  lf_wf := by decide
  hist_wf := by decide
  canvas_wf := by decide
  halted_iff := by decide
  errcode_iff := by decide
  job_flag := rfl
  held_ok := fun _ h => nomatch h
  geometry := fun h => nomatch h
  progress := trivial
  encoder := .inl rfl

theorem witness_inv_error : errorState.Inv where
  conf_wf := witness_reference_wf
  reserved := ⟨by decide, by decide, by decide, by decide⟩
  lf_wf := by decide
  hist_wf := by decide
  canvas_wf := by decide
  halted_iff := by decide
  errcode_iff := by decide
  job_flag := trivial
  held_ok := fun _ h => nomatch h
  geometry := fun h => nomatch h
  progress := trivial
  encoder := trivial

/-- `StepKeepsInvariant`, `NoStepFaults`, `PhasesInOrder`, `LatchesHold`: a step from LOAD on the host's turn, from
PACK on the engine's, from INIT with its first byte accepted. -/
theorem witness_steps :
    (∃ t, step packState = .next t) ∧ (∃ t, step { initState with sink := [.accept] } = .next t) ∧
      ∃ t, step { loadState with host := [.wr 0x18 0xFF000000] } = .next t :=
  ⟨⟨_, rfl⟩, ⟨_, rfl⟩, ⟨_, rfl⟩⟩

theorem witness_inv_pix_step : ({ loadState with host := [.wr 0x18 0xFF000000] } : State).Inv :=
  { witness_inv_load with
    reserved := { witness_inv_load.reserved with }
    geometry := fun _ => { witness_admitted .load [] with } }

theorem witness_inv_init_step : ({ initState with sink := [.accept] } : State).Inv :=
  { witness_inv_init with reserved := { witness_inv_init.reserved with }, geometry := fun h => nomatch h }

/-- `StepKeepsHistogramCounts`. -/
theorem witness_hist_counts : loadState.HistCounts := by
  intro _ v
  show (((bufOf []).zero 256 : Buf 32).read v.toNat).toNat = 0
  rw [Buf.read_zero, if_pos v.isLt]
  rfl

/-- `StepKeepsBinaryField`. -/
theorem witness_binary_field : packState.BinaryField := by
  intro _ i hi
  obtain rfl : i = 0 := Nat.lt_one_iff.mp hi
  exact .inl rfl

/-- `ErrorIsSticky`: an ignored command, and a soft reset. -/
theorem witness_error_steps :
    errorState.err = true ∧ (∃ t, step { errorState with host := [.wr 0x10 0x3] } = .next t) ∧
      ∃ t, step { errorState with host := [.wr 0x10 0xF] } = .next t :=
  ⟨rfl, ⟨_, rfl⟩, ⟨_, rfl⟩⟩

/-- `StreamOnlyGrows`: the step of INIT above sends a byte. -/
theorem witness_stream_grows :
    view (·.out) (step { initState with sink := [.accept] }) = some [0x1B] := by decide

/-- `DecodeEncodeRoundTrip`, at the ends of the operands' ranges; `CommandCodesSelect` and `PixLanesDecode`
need no more than the parameters. -/
theorem witness_round_trip :
    Config.reference.FramesDiffer ∧
    (Instr.frameMargin 8).wellFormed Config.reference = true ∧
    (Instr.frameMargin 504).wellFormed Config.reference = true ∧
    (Instr.frameStore 8 1 [0x80]).wellFormed Config.reference = true ∧
    (Instr.frameStore 512 1 (List.replicate 64 0xFF)).wellFormed Config.reference = true ∧
    (Instr.wrUnmapped 0x20 0).wellFormed Config.reference = true ∧
    (Instr.rdUnmapped 0xFFFFFFFC).wellFormed Config.reference = true := by decide

/-- `AcceptedFetchReencodes`: a write, a read with data on the bus, a phase code with and without a pixel, a
frame. -/
theorem witness_accepted :
    decode Config.reference (.bus ⟨.write, .word, 0x10, 0x12345671⟩) = .ok (.jobStart 0x1234567) ∧
    decode Config.reference (.bus ⟨.read, .word, 0x14, 0x21⟩) = .ok .rdStatus ∧
    decode Config.reference (.phase 0x2 0x04030201) = .ok (.reduce 1 2 3 4) ∧
    decode Config.reference (.phase 0x8 0x04030201) = .ok .emit ∧
    decode Config.reference (.frame [0x1B, 0x40]) = .ok .frameInit := by decide

/-- `CommandCodesSelect`, its second clause, at the last code. -/
theorem witness_command_codes :
    State.reset.busy = false ∧ (commands 1)[(0xF#4).toNat]? = some (.softReset 1) ∧
    (commands 2)[(0xF#4).toNat]? = some (.softReset 2) := by decide

/-- `NarrowAndMisalignedRefused`. -/
theorem witness_refused_accesses :
    let s := fun a => { State.reset with host := [a], turns := [.host] }
    (s ⟨.write, .half, 0, 0⟩).held = none ∧ AccessSize.half ≠ .word ∧ (2#32).toNat % 4 ≠ 0 ∧
    (s ⟨.read, .word, 2, 0⟩).turns = [.host] ∧ (s ⟨.read, .word, 2, 0⟩).host = [⟨.read, .word, 2, 0⟩] := by decide

/-- `StepRunsHostAccess`: on a turn, and with no turn decided. -/
theorem witness_host_access :
    let s := { State.reset with host := [.rd 0x14] }
    s.held = none ∧ s.host = [.rd 0x14] ∧ decode s.conf (.bus (.rd 0x14)) = .ok .rdStatus ∧ s.turns = [] ∧
    s.busy = false ∧ ({ s with turns := [.host] } : State).turns = [.host] := by decide

/-- `StepRunsEngineOperation`: on a turn, and alone; each of the eight phases is open. -/
theorem witness_engine_operation (p : Phase) :
    let s := { State.reset with phase := p }
    (∃ ts, ({ s with turns := [.engine] } : State).turns = .engine :: ts ∧
      s = { { s with turns := [.engine] } with turns := ts }) ∧ EngineAlone s ∧ s.phase = p :=
  ⟨⟨[], rfl, rfl⟩, ⟨rfl, rfl, rfl⟩, rfl⟩

/-- `HeldWriteBlocksThenCompletes`: held in PACK and in READY, with and without a turn decided. -/
theorem witness_held :
    let s := { packState with held := some (.nop 0) }
    let t := { idleJob with held := some (.nop 0) }
    s.held = some (.nop 0) ∧ s.busy = true ∧ s.turns = [] ∧ t.held = some (.nop 0) ∧ t.busy = false ∧
    t.turns = [] ∧ ({ t with turns := [.engine] } : State).turns = [.engine] := by decide

/-- `PowerOnResetsAndIdleWaits`. -/
theorem witness_power_on :
    ({ packState with turns := [.powerOn] } : State).turns = [.powerOn] ∧ State.reset.busy = false ∧
    EngineAlone State.reset := ⟨rfl, rfl, rfl, rfl, rfl⟩

/-- `NopHasNoEffect`, `WritesHeldWhileBusy`, `CommandsIgnoredWhileError`. -/
theorem witness_gates :
    State.reset.busy = false ∧ packState.busy = true ∧ isHoldable (.pix 0 0 0 255) = true ∧
    isHoldable (.reservedE 0) = true ∧ errorState.busy = false ∧ errorState.err = true := by decide

/-- `JobStartLatchesConfiguration`, each alignment. -/
theorem witness_job_start (d : Word) :
    ({ State.reset with ctrl := d } : State).phase = .idle ∧ ({ State.reset with ctrl := d } : State).err = false ∧
    (0x00#32).toNat / 8 % 4 = 0 ∧ (0x08#32).toNat / 8 % 4 = 1 ∧ (0x10#32).toNat / 8 % 4 = 2 ∧
    (0x18#32).toNat / 8 % 4 = 3 := ⟨rfl, rfl, by decide⟩

/-- The hypotheses of `ImageAdmits`. -/
def Admissible (s : State) : Prop :=
  s.phase = .ready ∧ s.err = false ∧ 0 < regW s ∧ 0 < regH s ∧ regW s ≤ 512 ∧
    regW s * regH s ≤ s.conf.lfCap ∧ (regW s + 7) / 8 * regH s ≤ s.conf.canvasCap

/-- `ImageAdmits`, the smallest and the largest image. -/
theorem witness_image_smallest : Admissible (readyState (cfgOf 0 0x80) 1 1) := by
  unfold Admissible; decide
theorem witness_image_largest : Admissible (readyState (cfgOf 0 0x80) 512 65535) := by
  unfold Admissible; decide

/-- `ImageErrorPriority`, each clause: not READY; a zero width; a zero height with a width too large; 513 dots;
too large for either buffer. -/
theorem witness_image_errors :
    let s := fun w h => readyState (cfgOf 0 0x80) w h
    State.reset.phase ≠ .ready ∧ (s 0 1).busy = false ∧ (s 0 1).err = false ∧ (s 0 1).phase = .ready ∧
    regW (s 0 1) = 0 ∧ regH (s 600 0) = 0 ∧ (512 < regW (s 513 1) ∧ regW (s 513 1) ≠ 0 ∧ regH (s 513 1) ≠ 0) ∧
    (let t := { s 16 8 with conf := { Config.reference with lfCap := 100 } }
     t.conf.lfCap < regW t * regH t ∧ regW t ≠ 0 ∧ regH t ≠ 0 ∧ regW t ≤ 512) ∧
    (let t := { s 512 1 with conf := { Config.reference with canvasCap := 63 } }
     t.conf.canvasCap < (regW t + 7) / 8 * regH t ∧ regW t ≠ 0 ∧ regH t ≠ 0 ∧ regW t ≤ 512) := by decide

/-- `JobEndEndsOrCuts`, both clauses. -/
theorem witness_job_end :
    idleJob.phase = .ready ∧ idleJob.err = false ∧ idleJob.cfg.cut = false ∧
    (readyState (cfgOf 1 0x80) 0 0).phase = .ready ∧ (readyState (cfgOf 1 0x80) 0 0).cfg.cut = true := by decide

/-- `CommandErrorRaised`, each clause. -/
theorem witness_command_error :
    idleJob.busy = false ∧ idleJob.err = false ∧ idleJob.phase ≠ .idle ∧ idleJob.phase ≠ .load ∧
    State.reset.busy = false ∧ State.reset.err = false ∧ State.reset.phase ≠ .ready ∧
    Instr.reservedE 0 ∈ reservedCommands 0 := by decide

/-- `PixelReduced`: the only pixel of an image, and the first of three. -/
theorem witness_pixel :
    (let s := loadState
     s.phase = .load ∧ s.err = false ∧ s.li.toNat < s.n.toNat ∧ s.li.toNat < s.conf.lfCap ∧
       s.li.toNat + 1 = s.n.toNat) ∧
    (let s := imageState (cfgOf 2 0x80) .load 3 1 []
     s.phase = .load ∧ s.err = false ∧ s.li.toNat < s.n.toNat ∧ s.li.toNat < s.conf.lfCap ∧
       s.li.toNat + 1 < s.n.toNat) := by decide

/-- `OpaqueAndTransparentPixels` needs the parameters only; `ReduceMonotone`. -/
theorem witness_monotone : (0#8).toNat ≤ (255#8).toNat ∧ (7#8).toNat ≤ (7#8).toNat := by decide

/-- `CdfCumulates`, its last clause: the counts of a 1x1 image of lightness 0. -/
theorem witness_cdf_counts :
    let s := { imageState (cfgOf 2 0x80) .cdf 1 1 [0] with hist := ((bufOf []).zero 256).write 0 1 }
    ∀ v : Byte, (s.hist.read v.toNat).toNat = (List.range s.n.toNat).countP fun i => s.lf.read i == v := by
  intro s v
  have h : s.hist.read v.toNat = if v.toNat = 0 then 1 else 0 := by
    show (((bufOf []).zero 256).write 0 1 : Buf 32).read v.toNat = _
    rw [Buf.read_write, Buf.read_zero, if_pos v.isLt]
  rw [h]
  by_cases hv : v = 0
  · subst hv; rfl
  · rw [if_neg fun e : v.toNat = 0 => hv (BitVec.eq_of_toNat_eq e)]
    show 0 = List.countP (fun i => (bufOf [(0 : Byte)]).read i == v) [0]
    have h0 : (bufOf [(0 : Byte)]).read 0 = 0 := rfl
    rw [List.countP_singleton, h0, if_neg fun e => hv (beq_iff_eq.mp e).symm]

/-- `RemapEqualizes` and `RemapKeepsOrder`: the CDF of a 1x1 image of lightness 0. -/
theorem witness_remap :
    let s := { imageState (cfgOf 2 0x80) .remap 1 1 [0] with hist := (bufOf []).update 256 fun _ => 1 }
    0 < s.n.toNat ∧ s.n.toNat ≤ s.conf.lfCap ∧ (∃ t, exec .remap s = .next t) ∧
    (∀ v, v < 256 → (s.hist.read v).toNat ≤ s.n.toNat) ∧
    (∀ u v, u ≤ v → v < 256 → (s.hist.read u).toNat ≤ (s.hist.read v).toNat) := by
  intro s
  have h : ∀ v, v < 256 → (s.hist.read v).toNat = 1 := fun v hv => by
    show (((bufOf []).update 256 fun _ => 1 : Buf 32).read v).toNat = 1
    rw [Buf.read_update, if_pos hv]
    rfl
  exact ⟨by decide, by decide, ⟨_, rfl⟩, fun v hv => Nat.le_of_eq (h v hv),
    fun u v huv hv => Nat.le_of_eq ((h u (Nat.lt_of_le_of_lt huv hv)).trans (h v hv).symm)⟩

/-- `DitherPixelEffect`: a pixel of a 4x3 image with all six neighbours, and the corner with none. -/
theorem witness_dither_pixel :
    1 < 4 ∧ 0 < 3 ∧ 3 < 4 ∧ 2 < 3 ∧ ((2 = 1 + 1 ∨ 2 = 1 + 2) ∧ 0 = 0) ∧ 0 + 1 = 1 ∧ 2 = 0 + 2 := by decide

/-- `DitherSequential`, `DitherRuns`, `BinarizeMarks`: the sizes of the smallest and the largest image. -/
theorem witness_passes :
    0 < 1 * 1 ∧ packState.imgW.toNat * packState.imgH.toNat ≤ packState.conf.lfCap ∧
    packState.n.toNat ≤ packState.conf.lfCap ∧
    (let s := imageState (cfgOf 0 0x80) .dither 512 65535 []
     s.imgW.toNat * s.imgH.toNat ≤ s.conf.lfCap ∧ s.n.toNat ≤ s.conf.lfCap) := by decide +kernel

/-- `PackPlacesEveryDot`: the image of `packState`, with and without rotation; a dot and a padding column. -/
theorem witness_pack :
    packState.Admitted ∧ (imageState (cfgOf 4 0x80) .pack 1 1 [0]).Admitted ∧ 0 < packState.canvasW.toNat ∧
    7 < packState.canvasW.toNat ∧ 0 < packState.imgH.toNat :=
  ⟨witness_admitted .pack [0],
    ⟨by decide, by decide, by decide, by decide, by decide, by decide, by decide, by decide, by decide⟩, by decide⟩

/-- `RotationIsHalfTurn`, `OffsetOfAlignment`, `CanvasWidthPads`, at both ends of each range. -/
theorem witness_ranges :
    (0 < 1 ∧ 511 < 512 ∧ 65534 < 65535) ∧ (8 % 8 = 0 ∧ 8 ≤ 8 ∧ 8 ≤ 512) ∧ (512 % 8 = 0 ∧ 8 ≤ 512 ∧ 512 ≤ 512) ∧
    (1 ≤ 1 ∧ 1 ≤ 512) ∧ (1 ≤ 512 ∧ 512 ≤ 512) := by decide

/-- `OneByteOffered`: each answer. -/
theorem witness_one_byte :
    let s := { initState with pos := .inside .init [0x1B, 0x40] }
    Instr.initEmit ∈ [Instr.initEmit, .emit, .cutEmit] ∧ s.pos = .inside .init [0x1B, 0x40] ∧ s.err = false ∧
    ([0x40] : List Byte) ≠ [] ∧ ({ s with sink := [.accept] } : State).sink = [.accept] ∧
    ({ s with sink := [.stall] } : State).sink = [.stall] ∧
    ({ s with sink := [.fail] } : State).sink = [.fail] := by decide

/-- `LastByteEndsFrame`: each kind, and both ends of a chunk (the last of one row; the first of two). -/
theorem witness_last_byte (kind : FrameKind) :
    let s := { emitState with pos := .inside kind [0x32], sink := [.accept], k := 1 }
    Instr.emit ∈ [Instr.initEmit, .emit, .cutEmit] ∧ s.pos = .inside kind [0x32] ∧ s.sink = [.accept] ∧
    s.conf.Wf ∧ s.row0.toNat + s.k.toNat = s.imgH.toNat :=
  ⟨by decide, rfl, rfl, witness_reference_wf, rfl⟩

theorem witness_next_chunk :
    let s := { emitState with pos := .inside .flush [0x32], sink := [.accept], k := 1, imgH := 2 }
    s.pos = .inside .flush [0x32] ∧ s.row0.toNat + s.k.toNat < s.imgH.toNat := by decide

/-- `PhasesBeginFrames`, each clause. -/
theorem witness_phase_starts :
    State.reset.pos = .start ∧ ({ emitState with pos := .before .margin } : State).pos = .before .margin ∧
    ({ emitState with pos := .before .flush } : State).pos = .before .flush ∧
    ({ emitState with pos := .before .store, k := 1 } : State).pos = .before .store ∧ emitState.Admitted ∧
    emitState.row0.toNat + 1 ≤ emitState.imgH.toNat ∧ emitState.pos = .start :=
  ⟨rfl, rfl, rfl, rfl, { witness_admitted .emit [0] with }, by decide, rfl⟩

/-- `FirstByteOffered`: each place where a frame begins, the largest payload of the image, and each answer. -/
theorem witness_first_byte (answer : SinkAnswer) :
    let s := { emitState with k := 1, sink := [answer] }
    Begins .initEmit { initState with sink := [answer] } .init { initState with sink := [answer] } ∧
    Begins .cutEmit { idleJob with phase := .cut } .cut { idleJob with phase := .cut } ∧
    Begins .emit s .store { s with row0 := 0, k := 1, pos := .before .store } ∧
    (let t := { s with pos := .before .flush }
     Begins .emit t .flush t) ∧
    (s.row0.toNat + s.k.toNat) * s.stride.toNat ≤ s.conf.canvasCap ∧ s.sink = [answer] ∧ s.err = false :=
  ⟨.inl ⟨rfl, rfl, rfl, rfl⟩, .inr (.inl ⟨rfl, rfl, rfl, rfl⟩), .inr (.inr (.inr ⟨rfl, rfl, rfl, rfl⟩)),
    .inr (.inr (.inl ⟨rfl, rfl, rfl⟩)), by show 1 ≤ 64 * 65535; decide, rfl, rfl⟩

/-- `FrameOperationsSend`: each answer, and each of the five frames; a payload of one byte. -/
theorem witness_frame_operations (answer : SinkAnswer) :
    ({ State.reset with sink := [answer] } : State).sink = [answer] ∧ State.reset.err = false ∧
    ((frameTable Config.reference 8 8 1 [0x80]).map fun f => f.2.2.headD 0) = [0x1B, 0x1D, 0x1D, 0x1D, 0x1D] ∧
    (frameTable Config.reference 8 8 1 [0x80]).all (fun f => 2 ≤ f.2.2.length) = true :=
  ⟨rfl, rfl, by decide, by decide⟩

/-- X4, a failure and a stall at the first byte of INIT, and at the first byte of a frame as an operation. -/
theorem test_first_byte_not_accepted :
    view (fun t => (statusWord t, t.out)) (exec .initEmit { initState with sink := [.fail] }) = some (0x34F, []) ∧
    view (fun t => (t.out, t.pos)) (exec .initEmit { initState with sink := [.stall] }) =
      some ([], .inside .init [0x1B, 0x40]) ∧
    view (fun t => (statusWord t, t.out)) (exec .frameFlush { emitState with sink := [.fail] }) =
      some (0x36F, []) := by decide

/-- `StoreHeaderFieldsExact`, the smallest and the largest chunk (F2, F3); `ImageByteCount` needs the parameters
only. -/
theorem witness_store_header :
    (8 % 8 = 0 ∧ 8 ≤ 512 ∧ 1 ≤ Config.reference.gs8lMaxY ∧ ([0x80] : List Byte).length = 1 * (8 / 8)) ∧
    512 % 8 = 0 ∧ 1023 ≤ Config.reference.gs8lMaxY ∧
    (List.replicate (1023 * 64) (0 : Byte)).length = 1023 * (512 / 8) :=
  ⟨by decide, by decide, by decide, List.length_replicate⟩

/-- `JobBracketsSent`, both clauses. -/
theorem witness_brackets :
    (let s := { initState with sink := List.replicate 2 .accept }
     EngineAlone s ∧ s.pos = .start ∧ s.phase = .init ∧ s.sink = List.replicate 2 .accept ++ []) ∧
    (let s := { idleJob with phase := .cut, sink := List.replicate 4 .accept }
     EngineAlone s ∧ s.pos = .start ∧ s.phase = .cut ∧ s.sink = List.replicate 4 .accept ++ []) :=
  ⟨⟨⟨rfl, rfl, rfl⟩, rfl, rfl, rfl⟩, ⟨rfl, rfl, rfl⟩, rfl, rfl, rfl⟩

/-- `EmitSendsWholeImage`: the 1x1 image, 25 bytes (F2). -/
theorem witness_emit_image :
    let s := { emitState with sink := List.replicate 25 .accept }
    s.conf.Wf ∧ s.Admitted ∧ EngineAlone s ∧ s.phase = .emit ∧ s.pos = .start ∧ (imageBytes s).length = 25 ∧
    s.sink = List.replicate (imageBytes s).length .accept ++ [] := by
  intro s
  have h : (imageBytes s).length = 25 := by decide +kernel
  exact ⟨witness_reference_wf, { witness_admitted .emit [0] with }, ⟨rfl, rfl, rfl⟩, rfl, rfl, h, by rw [h]; rfl⟩

end Sys2Proof.Tests
end

/-! PROOFS. ColorReducer: an opaque and a transparent pixel, and monotonicity (41_color_reducer.md R168). -/

namespace Sys2Proof.Machine

/-- `Comp` is a byte before it is narrowed (41_color_reducer.md R161). -/
theorem comp_toNat (c a : Byte) : (comp c a).toNat = (255 - a.toNat) + a.toNat * c.toNat / 255 := by
  have hprod : a.toNat * c.toNat ≤ a.toNat * 255 := Nat.mul_le_mul_left _ (by omega)
  rw [comp, BitVec.toNat_ofNat]
  omega

/-- The weights of `Luma` add up to 255, so it is a byte before it is narrowed (41_color_reducer.md R164). -/
theorem luma_toNat (r g b : Byte) :
    (luma r g b).toNat = (55 * r.toNat + 182 * g.toNat + 18 * b.toNat) / 255 := by
  rw [luma, BitVec.toNat_ofNat]
  omega

@[simp] theorem comp_opaque (c : Byte) : comp c 255#8 = c := by
  apply BitVec.eq_of_toNat_eq
  rw [comp_toNat]
  simp

@[simp] theorem comp_transparent (c : Byte) : comp c 0#8 = 255#8 := by
  apply BitVec.eq_of_toNat_eq
  rw [comp_toNat]
  simp

@[simp] theorem luma_grey (v : Byte) : luma v v v = v := by
  apply BitVec.eq_of_toNat_eq
  rw [luma_toNat]
  omega

@[simp] theorem gamma_white : gamma 255#8 = 255#8 := by decide

theorem lightness_white {c : Config} (hc : c.Wf) : c.lightness 255#8 = 255#8 := hc.ltable_last

theorem comp_mono {c c' : Byte} (a : Byte) (h : c.toNat ≤ c'.toNat) : (comp c a).toNat ≤ (comp c' a).toNat := by
  have hprod : a.toNat * c.toNat / 255 ≤ a.toNat * c'.toNat / 255 :=
    Nat.div_le_div_right (Nat.mul_le_mul_left _ h)
  rw [comp_toNat, comp_toNat]
  omega

theorem gamma_mono {c c' : Byte} (h : c.toNat ≤ c'.toNat) : (gamma c).toNat ≤ (gamma c').toNat :=
  table_mono gammaTable (by decide +kernel) c c' h

theorem luma_mono {r g b r' g' b' : Byte} (hr : r.toNat ≤ r'.toNat) (hg : g.toNat ≤ g'.toNat)
    (hb : b.toNat ≤ b'.toNat) : (luma r g b).toNat ≤ (luma r' g' b').toNat := by
  rw [luma_toNat, luma_toNat]
  omega

theorem reducePixel_opaque (c : Config) (r g b : Byte) :
    reducePixel c r g b 255 = c.lightness (luma (gamma r) (gamma g) (gamma b)) := by
  simp [reducePixel]

theorem reducePixel_transparent {c : Config} (hc : c.Wf) (r g b : Byte) : reducePixel c r g b 0 = 255 := by
  simp [reducePixel, lightness_white hc]

/-- Every operation of the reduction is monotone, so their composition is. -/
theorem reducePixel_mono {c : Config} (hc : c.Wf) {r g b r' g' b' : Byte} (a : Byte) (hr : r.toNat ≤ r'.toNat)
    (hg : g.toNat ≤ g'.toNat) (hb : b.toNat ≤ b'.toNat) :
    (reducePixel c r g b a).toNat ≤ (reducePixel c r' g' b' a).toNat :=
  lightness_mono hc _ _ (luma_mono (gamma_mono (comp_mono a hr)) (gamma_mono (comp_mono a hg))
    (gamma_mono (comp_mono a hb)))

end Sys2Proof.Machine

/-! PROOFS. The fields of a store header (30_encoding.md R103, 46_frame_encoder.md R255). -/

namespace Sys2Proof

/-- A value that fits in 16 bits is read back from where `LE16` put it (20_memory.md R71). -/
theorem le16_field {f front back : List Byte} {j v : Nat} (hf : f = front ++ le16 v ++ back)
    (hj : front.length = j) (hv : v < 65536) :
    (f.getD j 0).toNat + 256 * (f.getD (j + 1) 0).toNat = v := by
  have hlo : f.getD j 0 = BitVec.ofNat 8 v := by
    subst hf hj; simp [le16]
  have hhi : f.getD (j + 1) 0 = BitVec.ofNat 8 (v / 256) := by
    subst hf hj; simp [le16]
  rw [hlo, hhi, BitVec.toNat_ofNat, BitVec.toNat_ofNat]
  omega

/-- No chunk's header overflows its length field: `GS8L_MAX_Y` is small enough for the widest canvas
(00_scope.md R9). -/
theorem paramLength_lt {c : Config} (hc : c.Wf) {cw k : Nat} (hcw : cw ≤ 512) (hk : k ≤ c.gs8lMaxY) :
    paramLength k (cw / 8) < 65536 := by
  have hfits : 10 + c.gs8lMaxY * 64 ≤ 65535 := hc.gs8l_fits
  have hraster : k * (cw / 8) ≤ c.gs8lMaxY * 64 := Nat.mul_le_mul hk (by omega)
  rw [paramLength]
  omega

section StoreFields

variable {c : Config} {cw k : Nat} (payload : List Byte)

/-- `p`, after the three bytes that begin the frame. -/
theorem storeFrame_length_field (hc : c.Wf) (hcw : cw ≤ 512) (hk : k ≤ c.gs8lMaxY) :
    ((storeFrame c cw k payload).getD 3 0).toNat + 256 * ((storeFrame c cw k payload).getD 4 0).toNat =
      10 + k * (cw / 8) :=
  le16_field (front := c.storePrefix.toList) (back := c.storeMid.toList ++ le16 cw ++ le16 k ++ payload)
    (by simp [storeFrame, storeHeader, paramLength]) (by simp) (paramLength_lt hc hcw hk)

/-- `canvas_w`, after those three, `p` and the eight fixed bytes. -/
theorem storeFrame_width_field (hcw : cw ≤ 512) :
    ((storeFrame c cw k payload).getD 13 0).toNat + 256 * ((storeFrame c cw k payload).getD 14 0).toNat = cw :=
  le16_field (front := c.storePrefix.toList ++ le16 (paramLength k (cw / 8)) ++ c.storeMid.toList)
    (back := le16 k ++ payload) (by simp [storeFrame, storeHeader]) (by simp) (by omega)

/-- `k`, the header's last field. -/
theorem storeFrame_height_field (hc : c.Wf) (hk : k ≤ c.gs8lMaxY) :
    ((storeFrame c cw k payload).getD 15 0).toNat + 256 * ((storeFrame c cw k payload).getD 16 0).toNat = k := by
  have hfits : 10 + c.gs8lMaxY * 64 ≤ 65535 := hc.gs8l_fits
  exact le16_field
    (front := c.storePrefix.toList ++ le16 (paramLength k (cw / 8)) ++ c.storeMid.toList ++ le16 cw)
    (back := payload) (by simp [storeFrame, storeHeader]) (by simp) (by omega)

theorem storeFrame_length : (storeFrame c cw k payload).length = 17 + payload.length := by
  simp [storeFrame]

theorem storeFrame_drop_header : (storeFrame c cw k payload).drop 17 = payload := by
  rw [storeFrame, List.drop_left' (Machine.storeHeader_length ..)]

end StoreFields

end Sys2Proof

/-! The obligations of the family 00_scope.md. -/

section ScopeObligations

open Sys2Proof Sys2Proof.Machine

/-- Settles O26: compositing keeps an opaque channel and makes a transparent one white, and both white and grey
are fixed by the weighted mean. -/
theorem opaqueAndTransparentPixels : Obligations.OpaqueAndTransparentPixels := by
  intro c r g b hc
  refine ⟨reducePixel_opaque c r g b, reducePixel_transparent hc r g b, ?_⟩
  rw [reducePixel_opaque, luma_grey]

/-- Settles O27: the reduction is a composition of monotone maps. -/
theorem reduceMonotone : Obligations.ReduceMonotone :=
  fun _ _ _ _ _ _ _ a hc hr hg hb => reducePixel_mono hc a hr hg hb

/-- Settles O43: each field is 16 bits at its place, and the constraint on `GS8L_MAX_Y` keeps its value below
`2 ^ 16`. -/
theorem storeHeaderFieldsExact : Obligations.StoreHeaderFieldsExact := by
  intro c cw k payload hc _ hcw hk hlen f field
  have hp : field 3 = 10 + k * (cw / 8) := storeFrame_length_field payload hc hcw hk
  refine ⟨hp, storeFrame_width_field payload hcw, storeFrame_height_field payload hc hk, ?_,
    storeFrame_drop_header payload⟩
  have hf : f.length = 17 + payload.length := storeFrame_length payload
  omega

end ScopeObligations

/-! PROOFS. The invariant, read and carried over to states that differ where it does not look
(10_state.md R32 to R54). -/

namespace Sys2Proof.Machine

/-! What the invariant says of one state. -/

theorem State.Inv.err_false {s : State} (hs : s.Inv) (hp : s.phase ≠ .halted) : s.err = false := by
  simpa [hs.halted_iff] using hp

/-- `GS8L_MAX_Y` fits the 11 bits of `k`, because a store frame's length fits 16 bits (00_scope.md R9). -/
theorem gs8lMaxY_le {c : Config} (hc : c.Wf) : c.gs8lMaxY ≤ 1023 := by
  have hfits : 10 + c.gs8lMaxY * 64 ≤ 65535 := hc.gs8l_fits
  omega

/-- A chunk's height fits the 11 bits of `k` (46_frame_encoder.md R253). -/
theorem chunkHeight_narrow {c : Config} (hc : c.Wf) (h row : Nat) :
    (BitVec.ofNat 11 (chunkHeight c.gs8lMaxY h row)).toNat = chunkHeight c.gs8lMaxY h row := by
  have hk : chunkHeight c.gs8lMaxY h row ≤ c.gs8lMaxY := Nat.min_le_left ..
  have hle := gs8lMaxY_le hc
  rw [BitVec.toNat_ofNat]
  omega

/-- The reset values meet the invariant whatever the parameters are (10_state.md R54). -/
theorem resetEngine_inv {s : State} (hc : s.conf.Wf) : (resetEngine s).Inv where
  conf_wf := hc
  reserved :=
    have zero : State.reset.ReservedZero := ⟨by decide, by decide, by decide, by decide⟩
    { zero with }
  lf_wf := List.Pairwise.nil
  hist_wf := List.Pairwise.nil
  canvas_wf := List.Pairwise.nil
  halted_iff := by simp [State.reset]
  errcode_iff := by simp [State.reset]
  job_flag := rfl
  held_ok := fun _ h => nomatch h
  geometry := fun h => nomatch h
  progress := trivial
  encoder := rfl

/-- An error halts the engine, and HALTED asks nothing of the image, the job flag and the encoder
(60_exceptions.md R292). -/
theorem raiseErr_inv {k : ErrKind} {s : State} (hs : s.Inv) (hk : k ≠ .none) : (raiseErr k s).Inv where
  conf_wf := by simpa using hs.conf_wf
  reserved := ⟨by simpa using hs.reserved.ctrl, by simpa using hs.reserved.thresh,
    by simpa using hs.reserved.width, by simpa using hs.reserved.height⟩
  lf_wf := by simpa using hs.lf_wf
  hist_wf := by simpa using hs.hist_wf
  canvas_wf := by simpa using hs.canvas_wf
  halted_iff := by simp
  errcode_iff := by
    have hcode := hs.errcode_iff
    cases he : s.err <;> simp_all [raiseErr_errcode]
  job_flag := by simp [State.JobFlagOk]
  held_ok := by simpa using hs.held_ok
  geometry := by simp [Phase.inImage]
  progress := by simp [State.ImageProgressOk]
  encoder := by simp [State.EncoderOk]

/-- Choosing a move disturbs nothing the invariant speaks of. -/
theorem SameEngine.inv {s u : State} (h : SameEngine s u) (hs : s.Inv) : u.Inv := by
  have held : ∀ i, u.held = some i → isHoldable i = true := by
    intro i hi
    obtain hh | hh := h.held
    · exact hs.held_ok i (hh ▸ hi)
    · exact nomatch hh.symm.trans hi
  rw [h.eq]
  exact { hs with reserved := { hs.reserved with }, geometry := fun h => { hs.geometry h with }, held_ok := held }

/-- An offer takes an answer, which the invariant does not speak of. -/
theorem drawAnswer_inv {s : State} (hs : s.Inv) : (drawAnswer s).2.Inv := by
  unfold drawAnswer
  split <;> exact { hs with reserved := { hs.reserved with }, geometry := fun h => { hs.geometry h with } }

end Sys2Proof.Machine

/-! PROOFS. The admission of an image (40_host_commands.md R136; 45_bit_packer.md R231, R237). -/

namespace Sys2Proof.Machine

/-- WIDTH and HEIGHT name an image that passes IMAGE's checks (60_exceptions.md R297). -/
structure State.ImageFits (s : State) : Prop where
  width_pos : 0 < (sizeField s.width).toNat
  height_pos : 0 < (sizeField s.height).toNat
  width_le : (sizeField s.width).toNat ≤ printerMaxWidth
  fits_lf : (sizeField s.width).toNat * (sizeField s.height).toNat ≤ s.conf.lfCap
  fits_canvas : canvasWidth (sizeField s.width).toNat / 8 * (sizeField s.height).toNat ≤ s.conf.canvasCap

/-- What IMAGE leaves of an image that fits (40_host_commands.md R136). -/
def imageAdmitted (s : State) : State :=
  { s with
    imgW := sizeField s.width
    imgH := sizeField s.height
    n := BitVec.ofNat 26 ((sizeField s.width).toNat * (sizeField s.height).toNat)
    canvasW := BitVec.ofNat 10 (canvasWidth (sizeField s.width).toNat)
    stride := BitVec.ofNat 7 (canvasWidth (sizeField s.width).toNat / 8)
    offset := BitVec.ofNat 10 (offsetDots s.cfg.align s.cfg.rotate (canvasWidth (sizeField s.width).toNat))
    hist := s.hist.zero 256
    histMode := .count
    li := 0
    phase := .load }

/-- IMAGE refuses outside READY; in READY it refuses with some of the geometry latched, or admits. -/
theorem admitImage_cases (s : State) :
    (s.phase ≠ .ready ∧ admitImage s = raiseErr .commandError s) ∨
    (s.phase = .ready ∧ ¬ s.ImageFits ∧ ∃ k w h n cw st, k ≠ .none ∧
      admitImage s = raiseErr k { s with imgW := w, imgH := h, n := n, canvasW := cw, stride := st }) ∨
    (s.phase = .ready ∧ s.ImageFits ∧ admitImage s = imageAdmitted s) := by
  unfold admitImage
  dsimp only
  split_ifs with hp hz hw hcaps
  · exact .inl ⟨hp, rfl⟩
  · refine .inr (.inl ⟨not_not.mp hp, fun fits => ?_, .commandError, _, _, s.n, s.canvasW, s.stride, nofun, rfl⟩)
    obtain h0 | h0 := hz
    · simpa [h0] using fits.width_pos
    · simpa [h0] using fits.height_pos
  · exact .inr (.inl ⟨not_not.mp hp, fun fits => Nat.not_lt.mpr fits.width_le hw, .imageTooWide, _, _, s.n,
      s.canvasW, s.stride, nofun, rfl⟩)
  · refine .inr (.inl ⟨not_not.mp hp, fun fits => ?_, .allocationFailure, _, _, _, _, _, nofun, rfl⟩)
    exact hcaps.elim (Nat.not_lt.mpr fits.fits_lf) (Nat.not_lt.mpr fits.fits_canvas)
  · obtain ⟨hw0, hh0⟩ := not_or.mp hz
    obtain ⟨hlf, hcanvas⟩ := not_or.mp hcaps
    exact .inr (.inr ⟨not_not.mp hp, ⟨Nat.pos_of_ne_zero (BitVec.toNat_ne.mp hw0),
      Nat.pos_of_ne_zero (BitVec.toNat_ne.mp hh0), Nat.not_lt.mp hw, Nat.not_lt.mp hlf, Nat.not_lt.mp hcanvas⟩,
      rfl⟩)

theorem admitImage_of_fits {s : State} (hp : s.phase = .ready) (fits : s.ImageFits) :
    admitImage s = imageAdmitted s := by
  obtain ⟨h, -⟩ | ⟨-, h, -⟩ | ⟨-, -, h⟩ := admitImage_cases s
  · exact absurd hp h
  · exact absurd fits h
  · exact h

theorem offsetDots_le (al : Align) (rotate : Bool) (cw : Nat) : offsetDots al rotate cw ≤ 512 := by
  unfold offsetDots clearLow3 printerMaxWidth
  split <;> omega

/-- No field of the geometry latch is narrowed: the widest image has 512 columns, the highest 65535 rows. -/
theorem imageAdmitted_admitted {s : State} (fits : s.ImageFits) : (imageAdmitted s).Admitted := by
  obtain ⟨hw0, hh0, hw, hlf, hcanvas⟩ := fits
  have hw' : (sizeField s.width).toNat ≤ 512 := hw
  have hh' : (sizeField s.height).toNat < 65536 := (sizeField s.height).isLt
  have hcw : canvasWidth (sizeField s.width).toNat ≤ 512 := by unfold canvasWidth; omega
  have hn : (imageAdmitted s).n.toNat = (sizeField s.width).toNat * (sizeField s.height).toNat := by
    have hprod : (sizeField s.width).toNat * (sizeField s.height).toNat ≤ 512 * 65535 :=
      Nat.mul_le_mul hw' (by omega)
    exact BitVec.toNat_ofNat .. |>.trans (Nat.mod_eq_of_lt (by omega))
  have hcanvasW : (imageAdmitted s).canvasW.toNat = canvasWidth (sizeField s.width).toNat :=
    BitVec.toNat_ofNat .. |>.trans (Nat.mod_eq_of_lt (by omega))
  have hstride : (imageAdmitted s).stride.toNat = canvasWidth (sizeField s.width).toNat / 8 :=
    BitVec.toNat_ofNat .. |>.trans (Nat.mod_eq_of_lt (by omega))
  have hoffset : (imageAdmitted s).offset.toNat =
      offsetDots s.cfg.align s.cfg.rotate (canvasWidth (sizeField s.width).toNat) := by
    have hle := offsetDots_le s.cfg.align s.cfg.rotate (canvasWidth (sizeField s.width).toNat)
    exact BitVec.toNat_ofNat .. |>.trans (Nat.mod_eq_of_lt (by omega))
  exact {
    width_pos := hw0
    height_pos := hh0
    width_le := hw
    n_eq := hn
    canvasW_eq := hcanvasW
    stride_eq := by rw [hstride, hcanvasW]
    offset_eq := by rw [hoffset, hcanvasW]; rfl
    fits_lf := hn ▸ hlf
    fits_canvas := hstride ▸ hcanvas }

end Sys2Proof.Machine

/-! PROOFS. All that a step can change, said once: the step inversion of Laws/Step.lean with every operation run,
from a state of the invariant. -/

namespace Sys2Proof.Machine

/-! The frames (46_frame_encoder.md R250 to R262). -/

/-- `v` is `s` but for a held write let go, the outside world and the encoder's place. -/
structure SameImage (s v : State) : Prop where
  eq : v = { s with
    held := v.held, host := v.host, turns := v.turns, sink := v.sink, draws := v.draws,
    row0 := v.row0, k := v.k, pos := v.pos }

theorem SameImage.refl (s : State) : SameImage s s := ⟨rfl⟩

theorem SameImage.trans {s u v : State} (h : SameImage s u) (h' : SameImage u v) : SameImage s v :=
  ⟨h'.eq.trans (by rw [h.eq])⟩

theorem SameImage.symm {s v : State} (h : SameImage s v) : SameImage v s := ⟨by rw [h.eq]⟩

theorem SameEngine.sameImage {s u : State} (h : SameEngine s u) : SameImage s u := ⟨by rw [h.eq]⟩

theorem drawAnswer_sameImage (s : State) : SameImage s (drawAnswer s).2 := by
  unfold drawAnswer
  split <;> exact ⟨rfl⟩

/-- The rows of the chunk in progress (46_frame_encoder.md R253). -/
def State.ChunkOk (s : State) : Prop :=
  s.row0.toNat < s.imgH.toNat ∧ s.k.toNat = chunkHeight s.conf.gs8lMaxY s.imgH.toNat s.row0.toNat

/-- A frame of this kind can be the one in progress (46_frame_encoder.md R251, R254, R262). -/
def State.Sends (s : State) (kind : FrameKind) : Prop :=
  match kind with
  | .init => s.phase = .init
  | .margin => s.phase = .emit ∧ s.offset ≠ 0 ∧ s.ChunkOk
  | .store => s.phase = .emit ∧ s.ChunkOk
  | .flush => s.phase = .emit ∧ s.ChunkOk
  | .cut => s.phase = .cut

theorem State.Sends.phase {s : State} {kind : FrameKind} (h : s.Sends kind) :
    s.phase = .init ∨ s.phase = .emit ∨ s.phase = .cut := by
  cases kind
  case init => exact .inl h
  case cut => exact .inr (.inr h)
  all_goals exact .inr (.inl h.1)

theorem sends_firstFrame {s : State} (hp : s.phase = .emit) (hc : s.ChunkOk) : s.Sends (firstFrame s) := by
  unfold firstFrame
  split
  · exact ⟨hp, ‹_›, hc⟩
  · exact ⟨hp, hc⟩

/-- In EMIT the encoder may be at any place of a chunk whose rows are right. -/
theorem encoderOk_emit {s : State} (hp : s.phase = .emit) (hin : s.pos.inChunk s.offset) (hc : s.ChunkOk) :
    s.EncoderOk := by
  simp only [State.EncoderOk, hp]
  exact .inr ⟨hin, hc⟩

/-- The encoder may be inside a frame that is in progress. -/
theorem encoderOk_inside {s : State} {kind : FrameKind} {rest : List Byte} (h : s.Sends kind) (hr : rest ≠ [])
    (hpos : s.pos = .inside kind rest) : s.EncoderOk := by
  have within : s.pos.within kind := ⟨rest, hr, hpos⟩
  cases kind with
  | init =>
    have hp : s.phase = .init := h
    simp only [State.EncoderOk, hp]
    exact .inr within
  | margin => exact encoderOk_emit h.1 (.inl ⟨h.2.1, .inr within⟩) h.2.2
  | store => exact encoderOk_emit h.1 (.inr (.inr (.inl within))) h.2
  | flush => exact encoderOk_emit h.1 (.inr (.inr (.inr (.inr within)))) h.2
  | cut =>
    have hp : s.phase = .cut := h
    simp only [State.EncoderOk, hp]
    exact .inr within

/-- A chunk's first frame may be next (46_frame_encoder.md R254, R257). -/
theorem encoderOk_chunkStart {s : State} (hc : s.conf.Wf) (hp : s.phase = .emit)
    (hrow : s.row0.toNat < s.imgH.toNat) : (chunkStart s).ChunkOk ∧ (chunkStart s).EncoderOk := by
  have chunk : (chunkStart s).ChunkOk := ⟨hrow, chunkHeight_narrow hc ..⟩
  refine ⟨chunk, encoderOk_emit hp ?_ chunk⟩
  show (EncPos.before (firstFrame s)).inChunk s.offset
  unfold firstFrame
  split
  · exact .inl ⟨‹_›, .inl rfl⟩
  · exact .inr (.inl rfl)

/-- Inside EMIT, a place of a chunk is before or inside a frame that is in progress. -/
theorem sends_of_inChunk {s : State} (hp : s.phase = .emit) (hin : s.pos.inChunk s.offset) (hc : s.ChunkOk) :
    ∃ kind, s.Sends kind ∧ (s.pos = .before kind ∨ s.pos.within kind) := by
  obtain ⟨hoff, hpos⟩ | h | h | h | h := hin
  · exact ⟨.margin, ⟨hp, hoff, hc⟩, hpos⟩
  · exact ⟨.store, ⟨hp, hc⟩, .inl h⟩
  · exact ⟨.store, ⟨hp, hc⟩, .inr h⟩
  · exact ⟨.flush, ⟨hp, hc⟩, .inl h⟩
  · exact ⟨.flush, ⟨hp, hc⟩, .inr h⟩

/-! The operations, each with its next state. -/

/-- What an accepted pixel of lightness `v` leaves (41_color_reducer.md R170, R171). -/
def pixelLoaded (v : Byte) (s : State) : State :=
  { s with
    lf := s.lf.write s.li.toNat v
    hist := s.hist.write v.toNat (s.hist.read v.toNat + 1)
    li := s.li + 1
    phase := if s.li + 1 = s.n then (if s.cfg.photo then .cdf else .binarize) else s.phase }

/-- All that a step can change, the move chosen, the frame's bytes prepared and the sink's answer drawn. -/
inductive Change (s : State) : State → Prop where
  | stored (ctrl thresh width height rdata : Word)
      (reserved : s.ReservedZero → ctrl &&& ~~~ctrlMask = 0 ∧ thresh &&& ~~~threshMask = 0 ∧
        width &&& ~~~sizeMask = 0 ∧ height &&& ~~~sizeMask = 0) :
      Change s { s with ctrl := ctrl, thresh := thresh, width := width, height := height, rdata := rdata }
  | reset : Change s (resetEngine s)
  | held (i : Instr) (holdable : isHoldable i = true) : Change s { s with held := some i }
  | raised (k : ErrKind) (error : k ≠ .none) : Change s (raiseErr k s)
  | refused (k : ErrKind) (w h : BitVec 16) (n : BitVec 26) (cw : BitVec 10) (st : BitVec 7) (error : k ≠ .none)
      (phase : s.phase = .ready) :
      Change s (raiseErr k { s with imgW := w, imgH := h, n := n, canvasW := cw, stride := st })
  | started (phase : s.phase = .idle) :
      Change s { s with cfg := jobCfgOf s.ctrl s.thresh, phase := .init, pos := .start }
  | admitted (phase : s.phase = .ready) (fits : s.ImageFits) : Change s (imageAdmitted s)
  | cutting (phase : s.phase = .ready) (cut : s.cfg.cut = true) : Change s { s with phase := .cut, pos := .start }
  | ended (phase : s.phase = .ready) (cut : s.cfg.cut = false) :
      Change s { s with jobActive := false, phase := .idle }
  | loaded (v : Byte) (phase : s.phase = .load) : Change s (pixelLoaded v s)
  | cumulated (phase : s.phase = .cdf) :
      Change s { s with hist := prefixSums s.hist, histMode := .cdf, phase := .remap }
  | remapped (phase : s.phase = .remap) :
      Change s { s with
        lf := s.lf.update s.n.toNat fun v => equalize (s.hist.read v.toNat) s.n.toNat
        effThr := equalize (s.hist.read s.cfg.thr.toNat) s.n.toNat
        phase := .dither }
  | dithered (phase : s.phase = .dither) :
      Change s { s with lf := ditherAll s.imgW.toNat s.imgH.toNat s.effThr s.lf, phase := .pack }
  | binarized (phase : s.phase = .binarize) :
      Change s { s with
        effThr := s.cfg.thr, lf := s.lf.update s.n.toNat (binarizeByte s.cfg.thr), phase := .pack }
  | packed (phase : s.phase = .pack) :
      Change s { s with
        canvas := packAll s.cfg.rotate s.n.toNat s.imgW.toNat s.imgH.toNat s.canvasW.toNat s.stride.toNat
          s.lf s.canvas
        phase := .emit
        pos := .start }
  | moved (out : List Byte) (row0 : BitVec 16) (k : BitVec 11) (pos : EncPos)
      (phase : s.phase = .init ∨ s.phase = .emit ∨ s.phase = .cut)
      (place : State.EncoderOk { s with out := out, row0 := row0, k := k, pos := pos }) :
      Change s { s with out := out, row0 := row0, k := k, pos := pos }
  | initSent (out : List Byte) (phase : s.phase = .init) :
      Change s { s with out := out, jobActive := true, phase := .ready, pos := .start }
  | imageSent (out : List Byte) (row0 : BitVec 16) (phase : s.phase = .emit) :
      Change s { s with out := out, row0 := row0, phase := .ready, pos := .start }
  | cutSent (out : List Byte) (phase : s.phase = .cut) :
      Change s { s with out := out, jobActive := false, phase := .idle, pos := .start }

theorem Change.same (s : State) : Change s s :=
  .stored s.ctrl s.thresh s.width s.height s.rdata fun z => ⟨z.1, z.2, z.3, z.4⟩

/-! The commands and the pixel. -/

theorem startJob_change (s : State) : Change s (startJob s) := by
  unfold startJob
  split
  · exact .raised _ nofun
  · exact .started (not_not.mp ‹_›)

theorem endJob_change (s : State) : Change s (endJob s) := by
  unfold endJob
  split_ifs with hp hcut
  · exact .raised _ nofun
  · exact .cutting (not_not.mp hp) hcut
  · exact .ended (not_not.mp hp) (by simpa using hcut)

theorem admitImage_change (s : State) : Change s (admitImage s) := by
  obtain ⟨-, h⟩ | ⟨hp, -, k, w, ht, n, cw, st, hk, h⟩ | ⟨hp, fits, h⟩ := admitImage_cases s <;> rw [h]
  · exact .raised _ nofun
  · exact .refused k w ht n cw st hk hp
  · exact .admitted hp fits

theorem reduceStep_next {r g b a : Byte} {s t : State} (h : reduceStep r g b a s = .next t) :
    t = pixelLoaded (reducePixel s.conf r g b a) s := by
  unfold reduceStep at h
  split at h
  · cases h
  · cases h; rfl

theorem HostEffect.change {i : Instr} {s t : State} (h : HostEffect i s t) : Change s t := by
  cases h with
  | stored ctrl thresh width height rdata reserved => exact .stored ctrl thresh width height rdata reserved
  | reset => exact .reset
  | held _ holdable => exact .held i holdable
  | raised => exact .raised _ nofun
  | started => exact startJob_change s
  | admitted => exact admitImage_change s
  | ended => exact endJob_change s
  | reduced r g b a _ phase run =>
    rw [reduceStep_next run]
    exact .loaded _ phase

/-! The passes over the whole image. -/

theorem execRemap_change {s t : State} (hp : s.phase = .remap) (h : exec .remap s = .next t) : Change s t := by
  change execRemap s = _ at h
  unfold execRemap at h
  split_ifs at h
  cases h
  exact .remapped hp

theorem execDither_change {s t : State} (hp : s.phase = .dither) (h : exec .dither s = .next t) : Change s t := by
  change execDither s = _ at h
  unfold execDither at h
  split_ifs at h
  cases h
  exact .dithered hp

theorem execBinarize_change {s t : State} (hp : s.phase = .binarize) (h : exec .binarize s = .next t) :
    Change s t := by
  change execBinarize s = _ at h
  unfold execBinarize at h
  split_ifs at h
  cases h
  exact .binarized hp

theorem execPack_change {s t : State} (hp : s.phase = .pack) (h : exec .pack s = .next t) : Change s t := by
  change execPack s = _ at h
  unfold execPack at h
  split_ifs at h
  cases h
  exact .packed hp

/-! The emissions. -/

/-- A chunk ends inside the image or at its end, so `row0` does not overflow (46_frame_encoder.md R253, R260). -/
theorem State.ChunkOk.end_le {s : State} (h : s.ChunkOk) :
    (s.row0 + s.k.setWidth 16).toNat ≤ s.imgH.toNat := by
  obtain ⟨hrow, hk⟩ := h
  have hle : s.k.toNat ≤ s.imgH.toNat - s.row0.toNat := hk ▸ Nat.min_le_right ..
  have hlt := s.k.isLt
  rw [BitVec.toNat_add, BitVec.toNat_setWidth]
  omega

/-- What the end of a frame changes. -/
theorem frameDone_change {kind : FrameKind} {s : State} (hc : s.conf.Wf) (h : s.Sends kind) (out : List Byte) :
    Change s (frameDone kind { s with out := out }) := by
  cases kind with
  | init => exact .initSent out h
  | margin => exact .moved out s.row0 s.k _ h.phase (encoderOk_emit h.1 (.inr (.inl rfl)) h.2.2)
  | store => exact .moved out s.row0 s.k _ h.phase (encoderOk_emit h.1 (.inr (.inr (.inr (.inl rfl)))) h.2)
  | flush =>
    obtain ⟨hp, hchunk⟩ := h
    unfold frameDone
    dsimp only
    split
    · exact .imageSent out _ hp
    · next hne =>
      have hlt : (s.row0 + s.k.setWidth 16).toNat < s.imgH.toNat :=
        Nat.lt_of_le_of_ne hchunk.end_le (BitVec.toNat_ne.mp hne)
      exact .moved out _ _ _ (.inr (.inl hp))
        (encoderOk_chunkStart (s := { s with out := out, row0 := s.row0 + s.k.setWidth 16 }) hc hp hlt).2
  | cut => exact .cutSent out h

theorem drawAnswer_sends {kind : FrameKind} {s : State} (h : s.Sends kind) : (drawAnswer s).2.Sends kind := by
  unfold drawAnswer
  cases kind <;> split <;> exact h

/-- What offering a byte of a frame in progress changes. -/
theorem sendBytes_change {kind : FrameKind} {s : State} {bytes : List Byte} (hc : s.conf.Wf)
    (h : s.Sends kind) (hb : bytes ≠ []) : Change (drawAnswer s).2 (sendBytes kind bytes s) := by
  have h' : (drawAnswer s).2.Sends kind := drawAnswer_sends h
  obtain ⟨b, rest, rfl⟩ := List.exists_cons_of_ne_nil hb
  obtain ⟨-, -, e⟩ | ⟨-, hr, e⟩ | ⟨-, e⟩ | ⟨-, e⟩ := sendBytes_cases kind b rest s <;> rw [e]
  · exact frameDone_change (by simpa using hc) h' _
  · exact .moved _ _ _ _ h'.phase (encoderOk_inside h' hr rfl)
  · exact .moved (drawAnswer s).2.out _ _ _ h'.phase (encoderOk_inside h' hb rfl)
  · exact .raised _ nofun

/-- `t` comes of a change to a state that the invariant holds of and that differs from `s` in the outside world, a
held write let go and the encoder's place alone. -/
def ChangeFrom (s t : State) : Prop := ∃ v, SameImage s v ∧ v.Inv ∧ Change v t

theorem Change.changeFrom {s t : State} (hs : s.Inv) (h : Change s t) : ChangeFrom s t := ⟨s, .refl s, hs, h⟩

theorem ChangeFrom.of_sameImage {s u t : State} (hu : SameImage s u) (h : ChangeFrom u t) : ChangeFrom s t := by
  obtain ⟨v, hv, inv, change⟩ := h
  exact ⟨v, hu.trans hv, inv, change⟩

theorem sendBytes_changeFrom {kind : FrameKind} {s : State} {bytes : List Byte} (hs : s.Inv) (h : s.Sends kind)
    (hb : bytes ≠ []) : ChangeFrom s (sendBytes kind bytes s) :=
  ⟨_, drawAnswer_sameImage s, drawAnswer_inv hs, sendBytes_change hs.conf_wf h hb⟩

/-- INIT and CUT: a job's bracket is one frame, the phase's own. -/
theorem emitFrom_bracket {kind : FrameKind} {s t : State} (hs : s.Inv) (hk : s.Sends kind)
    (hpos : s.pos = .start ∨ s.pos.within kind) (h : emitFrom kind (fun s => s) s = .next t) : ChangeFrom s t := by
  obtain ⟨-, rfl⟩ | ⟨kind', hbefore, -⟩ | ⟨kind', rest', hin, rfl⟩ := emitFrom_cases h
  · exact sendBytes_changeFrom hs hk (frameBytes_ne_nil kind s)
  · obtain hstart | ⟨rest, -, hwithin⟩ := hpos
    · exact nomatch hbefore.symm.trans hstart
    · exact nomatch hbefore.symm.trans hwithin
  · obtain hstart | ⟨rest, hr, hwithin⟩ := hpos
    · exact nomatch hin.symm.trans hstart
    · cases hin.symm.trans hwithin
      exact sendBytes_changeFrom hs hk hr

/-- The first chunk of an image, prepared as EMIT is entered (46_frame_encoder.md R253, R254). -/
theorem chunkStart_first {s : State} (hs : s.Inv) (hp : s.phase = .emit) :
    (chunkStart { s with row0 := 0 }).Inv ∧ (chunkStart { s with row0 := 0 }).Sends (firstFrame s) := by
  have admitted : s.Admitted := hs.geometry (by rw [hp]; rfl)
  obtain ⟨chunk, place⟩ :=
    encoderOk_chunkStart (s := { s with row0 := 0 }) hs.conf_wf hp admitted.height_pos
  exact ⟨{ hs with
    reserved := { hs.reserved with }, geometry := fun _ => { admitted with }, encoder := place },
    sends_firstFrame (s := chunkStart { s with row0 := 0 }) hp chunk⟩

theorem execEmit_change {s t : State} (hs : s.Inv) (hp : s.phase = .emit) (h : exec .emit s = .next t) :
    ChangeFrom s t := by
  change emitFrom (firstFrame s) (fun s => chunkStart { s with row0 := 0 }) s = _ at h
  obtain ⟨-, rfl⟩ | ⟨kind', hbefore, rfl⟩ | ⟨kind', rest', hin, rfl⟩ := emitFrom_cases h
  · obtain ⟨inv, sends⟩ := chunkStart_first hs hp
    exact .of_sameImage ⟨rfl⟩ (sendBytes_changeFrom inv sends (frameBytes_ne_nil _ _))
  all_goals
    have place := hs.encoder
    simp only [State.EncoderOk, hp] at place
    obtain hstart | ⟨hchunk, hrows⟩ := place
  · exact nomatch hbefore.symm.trans hstart
  · obtain ⟨kind, sends, hpos | ⟨rest, -, hpos⟩⟩ := sends_of_inChunk hp hchunk hrows
    · cases hbefore.symm.trans hpos
      exact sendBytes_changeFrom hs sends (frameBytes_ne_nil _ _)
    · exact nomatch hbefore.symm.trans hpos
  · exact nomatch hin.symm.trans hstart
  · obtain ⟨kind, sends, hpos | ⟨rest, hr, hpos⟩⟩ := sends_of_inChunk hp hchunk hrows
    · exact nomatch hin.symm.trans hpos
    · cases hin.symm.trans hpos
      exact sendBytes_changeFrom hs sends hr

/-! The step. -/

/-- What the operation of a busy phase changes. -/
theorem phaseOp_change {s t : State} (hs : s.Inv) (hb : s.busy = true) (h : exec (phaseOp s.phase) s = .next t) :
    ChangeFrom s t := by
  have place := hs.encoder
  unfold State.EncoderOk at place
  cases hp : s.phase <;> rw [hp] at h place
  case idle | ready | load | halted => simp [State.busy, Phase.busy, hp] at hb
  case cdf => cases h; exact (Change.cumulated hp).changeFrom hs
  case remap => exact (execRemap_change hp h).changeFrom hs
  case dither => exact (execDither_change hp h).changeFrom hs
  case binarize => exact (execBinarize_change hp h).changeFrom hs
  case pack => exact (execPack_change hp h).changeFrom hs
  case emit => exact execEmit_change hs hp h
  case init => exact emitFrom_bracket (kind := .init) hs hp place h
  case cut => exact emitFrom_bracket (kind := .cut) hs hp place h

/-- All that a step can change, from a state of the invariant. -/
theorem step_change {s t : State} (hs : s.Inv) (h : step s = .next t) : ChangeFrom s t := by
  obtain ⟨u, same, effect⟩ := step_cases s
  have hu : u.Inv := same.inv hs
  refine .of_sameImage same.sameImage ?_
  generalize step s = result at h effect
  cases effect with
  | wait => cases h; exact (Change.same _).changeFrom hu
  | powerOn => cases h; exact Change.reset.changeFrom hu
  | complete i held => exact (host_exec_cases (fromHost_of_isHoldable (hs.held_ok i held)) h).change.changeFrom hu
  | access i host => exact (host_exec_cases host h).change.changeFrom hu
  | refused e => cases h
  | operate busy =>
    have hp : u.phase = s.phase := by rw [same.eq]
    have hb : u.busy = true := by rw [State.busy, hp]; exact busy
    exact phaseOp_change hu hb (hp ▸ h)

end Sys2Proof.Machine

/-! PROOFS. The invariant through every change (20_memory.md R80). -/

namespace Sys2Proof.Machine

/-! What the invariant says in a known phase. -/

theorem State.Inv.job_flag_at {s : State} (hs : s.Inv) (p : Phase) (hp : s.phase = p) :
    State.JobFlagOk { s with phase := p } := by
  subst hp; exact hs.job_flag

theorem State.Inv.progress_at {s : State} (hs : s.Inv) (p : Phase) (hp : s.phase = p) :
    State.ImageProgressOk { s with phase := p } := by
  subst hp; exact hs.progress

theorem State.Inv.encoder_at {s : State} (hs : s.Inv) (p : Phase) (hp : s.phase = p) :
    State.EncoderOk { s with phase := p } := by
  subst hp; exact hs.encoder

theorem State.Inv.admitted_at {s : State} {p : Phase} (hs : s.Inv) (hp : s.phase = p) (hi : p.inImage = true) :
    s.Admitted := hs.geometry (hp ▸ hi)

theorem Phase.ne_halted_of_inImage {p : Phase} (h : p.inImage = true) : p ≠ .halted := by
  rintro rfl; exact absurd h Bool.false_ne_true

/-- A job is active while it has an image in the engine (10_state.md R45). -/
theorem jobFlagOk_of_inImage {s : State} (hi : s.phase.inImage = true) : s.JobFlagOk ↔ s.jobActive = true := by
  unfold State.JobFlagOk
  cases hp : s.phase <;> simp [hp, Phase.inImage] at hi ⊢

/-- A phase that follows one without an error is no error either (60_exceptions.md R292). -/
theorem State.Inv.halted_iff_of {s : State} {p q : Phase} (hs : s.Inv) (hp : s.phase = p) (hp' : p ≠ .halted)
    (hq : q ≠ .halted) : q = .halted ↔ s.err = true :=
  iff_of_false hq (by simp [hs.err_false (hp ▸ hp')])

/-- Entering a phase without an image: only the job flag and the encoder's place are asked for. -/
theorem State.Inv.enter_outside {s : State} {p q : Phase} {cfg : JobCfg} {job : Bool} {out : List Byte}
    {row0 : BitVec 16} {pos : EncPos} (hs : s.Inv) (hp : s.phase = p) (hp' : p ≠ .halted) (hq : q ≠ .halted)
    (outside : q.inImage = false)
    (flag : State.JobFlagOk { s with jobActive := job, phase := q })
    (place : State.EncoderOk { s with row0 := row0, pos := pos, phase := q }) :
    State.Inv { s with cfg := cfg, phase := q, jobActive := job, row0 := row0, pos := pos, out := out } :=
  { hs with
    reserved := { hs.reserved with }
    halted_iff := hs.halted_iff_of hp hp' hq
    job_flag := flag
    geometry := fun h => nomatch outside.symm.trans h
    progress := by cases q <;> trivial
    encoder := place }

/-- From one phase of an image to another: its geometry and the job flag stay. -/
theorem State.Inv.enter_pass {s : State} {p q : Phase} {effThr : Byte} {li : BitVec 26} {pos : EncPos}
    {lf canvas : Memory} {hist : Buf 32} {mode : HistMode} (hs : s.Inv) (hp : s.phase = p)
    (hpi : p.inImage = true) (hqi : q.inImage = true) (lf_wf : lf.wf) (hist_wf : hist.wf) (canvas_wf : canvas.wf)
    (progress : State.ImageProgressOk { s with li := li, histMode := mode, phase := q })
    (place : State.EncoderOk { s with pos := pos, phase := q }) :
    State.Inv { s with
      effThr := effThr, phase := q, li := li, pos := pos, lf := lf, hist := hist, histMode := mode
      canvas := canvas } :=
  have active : s.jobActive = true := (jobFlagOk_of_inImage (hp ▸ hpi)).mp hs.job_flag
  { hs with
    reserved := { hs.reserved with }
    lf_wf := lf_wf
    hist_wf := hist_wf
    canvas_wf := canvas_wf
    halted_iff := hs.halted_iff_of hp (Phase.ne_halted_of_inImage hpi) (Phase.ne_halted_of_inImage hqi)
    job_flag := (jobFlagOk_of_inImage hqi).mpr active
    geometry := fun _ => { hs.admitted_at hp hpi with }
    progress := progress
    encoder := place }

/-! The pixels of an image (41_color_reducer.md R171). -/

/-- Below `N` the load index counts up without wrapping (10_state.md R44). -/
theorem li_succ {li n : BitVec 26} (h : li.toNat < n.toNat) : (li + 1).toNat = li.toNat + 1 := by
  bv_omega

/-- The N-th pixel ends LOAD (40_host_commands.md R140). -/
theorem pixelLoaded_phase {s : State} (v : Byte) (hp : s.phase = .load) :
    ((pixelLoaded v s).phase = .load ∧ s.li + 1 ≠ s.n) ∨
    ((pixelLoaded v s).phase = .cdf ∧ s.li + 1 = s.n ∧ s.cfg.photo = true) ∨
    ((pixelLoaded v s).phase = .binarize ∧ s.li + 1 = s.n ∧ s.cfg.photo = false) := by
  unfold pixelLoaded
  dsimp only
  split_ifs with hlast hphoto
  · exact .inr (.inl ⟨rfl, hlast, hphoto⟩)
  · exact .inr (.inr ⟨rfl, hlast, by simpa using hphoto⟩)
  · exact .inl ⟨hp, hlast⟩

theorem pixelLoaded_inv {s : State} (v : Byte) (hs : s.Inv) (hp : s.phase = .load) : (pixelLoaded v s).Inv := by
  have place : s.pos = .start := hs.encoder_at .load hp
  obtain ⟨hlt, hmode⟩ : s.li.toNat < s.n.toNat ∧ s.histMode = .count := hs.progress_at .load hp
  have rest : (pixelLoaded v s).phase.inImage = true ∧ (pixelLoaded v s).ImageProgressOk ∧
      (pixelLoaded v s).EncoderOk := by
    unfold State.ImageProgressOk State.EncoderOk
    obtain ⟨h, hne⟩ | ⟨h, hlast, hphoto⟩ | ⟨h, hlast, hphoto⟩ := pixelLoaded_phase v hp <;> rw [h]
    · have hne' : (s.li + 1).toNat ≠ s.n.toNat := BitVec.toNat_ne.mp hne
      have hlt' : (s.li + 1).toNat < s.n.toNat := by rw [li_succ hlt] at hne' ⊢; omega
      exact ⟨rfl, ⟨hlt', hmode⟩, place⟩
    · exact ⟨rfl, ⟨hlast, hmode, hphoto⟩, place⟩
    · exact ⟨rfl, ⟨hlast, hmode, hphoto⟩, place⟩
  obtain ⟨inImage, progress, encoder⟩ := rest
  exact hs.enter_pass hp rfl inImage (Buf.write_wf hs.lf_wf ..) (Buf.write_wf hs.hist_wf ..) hs.canvas_wf progress
    encoder

theorem imageAdmitted_inv {s : State} (hs : s.Inv) (hp : s.phase = .ready) (fits : s.ImageFits) :
    (imageAdmitted s).Inv := by
  have admitted := imageAdmitted_admitted fits
  have pixels : 0 < (imageAdmitted s).n.toNat :=
    admitted.n_eq ▸ Nat.mul_pos admitted.width_pos admitted.height_pos
  exact { hs with
    reserved := { hs.reserved with }
    hist_wf := Buf.zero_wf hs.hist_wf 256
    halted_iff := hs.halted_iff_of hp nofun nofun
    job_flag := hs.job_flag_at .ready hp
    geometry := fun _ => admitted
    progress := ⟨pixels, rfl⟩
    encoder := hs.encoder_at .ready hp }

/-- Every change keeps the invariant: each phase hands the next one what it asks for. -/
theorem Change.inv {s t : State} (hs : s.Inv) (h : Change s t) : t.Inv := by
  cases h with
  | stored ctrl thresh width height rdata reserved =>
    obtain ⟨hc, ht, hw, hh⟩ := reserved hs.reserved
    exact { hs with reserved := ⟨hc, ht, hw, hh⟩, geometry := fun h => { hs.geometry h with } }
  | reset => exact resetEngine_inv hs.conf_wf
  | held i holdable =>
    exact { hs with
      reserved := { hs.reserved with }
      geometry := fun h => { hs.geometry h with }
      held_ok := fun _ h => Option.some.inj h ▸ holdable }
  | raised k error => exact raiseErr_inv hs error
  | refused k w h n cw st error phase =>
    have place : s.pos = .start := hs.encoder_at .ready phase
    exact raiseErr_inv { hs with
      reserved := { hs.reserved with }
      geometry := fun h => by simp [phase, Phase.inImage] at h
      progress := by simp [State.ImageProgressOk, phase]
      encoder := by simp [State.EncoderOk, phase, place] } error
  | started phase => exact hs.enter_outside phase nofun nofun rfl (hs.job_flag_at .idle phase) (.inl rfl)
  | admitted phase fits => exact imageAdmitted_inv hs phase fits
  | cutting phase => exact hs.enter_outside phase nofun nofun rfl (hs.job_flag_at .ready phase) (.inl rfl)
  | ended phase => exact hs.enter_outside phase nofun nofun rfl rfl (hs.encoder_at .ready phase)
  | loaded v phase => exact pixelLoaded_inv v hs phase
  | cumulated phase =>
    obtain ⟨hli, -, hphoto⟩ := hs.progress_at .cdf phase
    have hist_wf := prefixSums_wf hs.hist_wf
    generalize prefixSums s.hist = hist at hist_wf ⊢
    exact hs.enter_pass phase rfl rfl hs.lf_wf hist_wf hs.canvas_wf ⟨hli, rfl, hphoto⟩ (hs.encoder_at .cdf phase)
  | remapped phase =>
    exact hs.enter_pass phase rfl rfl (Buf.update_wf hs.lf_wf ..) hs.hist_wf hs.canvas_wf
      (hs.progress_at .remap phase) (hs.encoder_at .remap phase)
  | dithered phase =>
    exact hs.enter_pass phase rfl rfl (ditherAll_wf _ _ _ hs.lf_wf) hs.hist_wf hs.canvas_wf
      (hs.progress_at .dither phase).1 (hs.encoder_at .dither phase)
  | binarized phase =>
    exact hs.enter_pass phase rfl rfl (Buf.update_wf hs.lf_wf ..) hs.hist_wf hs.canvas_wf
      (hs.progress_at .binarize phase).1 (hs.encoder_at .binarize phase)
  | packed phase =>
    exact hs.enter_pass phase rfl rfl hs.lf_wf hs.hist_wf (packAll_wf _ _ _ _ _ _ _ hs.canvas_wf)
      (hs.progress_at .pack phase) (.inl rfl)
  | moved out row0 k pos phase place =>
    exact { hs with
      reserved := { hs.reserved with }, geometry := fun h => { hs.geometry h with }, encoder := place }
  | initSent out phase => exact hs.enter_outside phase nofun nofun rfl rfl rfl
  | imageSent out row0 phase => exact hs.enter_outside phase nofun nofun rfl (hs.job_flag_at .emit phase) rfl
  | cutSent out phase => exact hs.enter_outside phase nofun nofun rfl rfl rfl

end Sys2Proof.Machine

/-! PROOFS. What every change keeps, beside the invariant: the histogram's counts, the order of the phases and
the latches. -/

namespace Sys2Proof.Machine

/-! The histogram (10_state.md R48). -/

/-- Loading a pixel adds it to the count of its lightness. -/
theorem countP_range_write (m : Memory) (li : Nat) (v u : Byte) :
    ((List.range (li + 1)).countP fun i => (m.write li v).read i == u) =
      ((List.range li).countP fun i => m.read i == u) + if v = u then 1 else 0 := by
  have before : ((List.range li).countP fun i => (m.write li v).read i == u) =
      (List.range li).countP fun i => m.read i == u := by
    refine List.countP_congr fun i hi => ?_
    rw [Buf.read_write_other m (Nat.ne_of_lt (List.mem_range.mp hi))]
  rw [List.range_succ, List.countP_append, before]
  simp [List.countP_cons]

/-- The counters have 32 bits and an image fewer than `2 ^ 26` pixels, so no counter wraps (10_state.md R48). -/
theorem pixelLoaded_histCounts {s : State} (v : Byte) (hs : s.Inv) (hc : s.HistCounts) (hp : s.phase = .load) :
    (pixelLoaded v s).HistCounts := by
  intro _ u
  obtain ⟨hlt, -⟩ := hs.progress_at .load hp
  have hli : (pixelLoaded v s).li.toNat = s.li.toNat + 1 := li_succ hlt
  have count := hc (.inl hp) u
  rw [hli]
  show ((s.hist.write v.toNat (s.hist.read v.toNat + 1)).read u.toNat).toNat =
    (List.range (s.li.toNat + 1)).countP fun i => (s.lf.write s.li.toNat v).read i == u
  rw [countP_range_write, ← count]
  by_cases hvu : v = u
  · subst hvu
    have bound : (s.hist.read v.toNat).toNat ≤ s.li.toNat := by
      rw [count]
      exact List.countP_le_length.trans_eq List.length_range
    have hn := s.n.isLt
    rw [Buf.read_write_same, if_pos rfl, BitVec.toNat_add]
    show ((s.hist.read v.toNat).toNat + 1) % 2 ^ 32 = _
    omega
  · have hne : u.toNat ≠ v.toNat := fun h => hvu (BitVec.eq_of_toNat_eq h.symm)
    rw [Buf.read_write_other _ hne, if_neg hvu, Nat.add_zero]

theorem imageAdmitted_histCounts (s : State) : (imageAdmitted s).HistCounts := by
  intro _ u
  show ((s.hist.zero 256).read u.toNat).toNat = (List.range 0).countP _
  rw [Buf.read_zero, if_pos u.isLt]
  rfl

/-- The counters count in LOAD, CDF and BINARIZE, and LOAD is the one way there. -/
theorem Change.histCounts {s t : State} (hs : s.Inv) (hc : s.HistCounts) (h : Change s t) : t.HistCounts := by
  cases h with
  | stored | held => exact hc
  | admitted => exact imageAdmitted_histCounts s
  | loaded v phase => exact pixelLoaded_histCounts v hs hc phase
  | moved _ _ _ _ phase =>
    intro counting
    obtain h | h | h := phase <;> simp [h] at counting
  | raised | refused | reset | started | cutting | ended | cumulated | remapped | dithered | binarized | packed
      | initSent | imageSent | cutSent =>
    intro counting
    simp [State.reset] at counting

/-! The order of the phases (10_state.md R52). -/

theorem mem_nextPhases_self (photo cut : Bool) (p : Phase) : p ∈ nextPhases photo cut p := by
  cases p <;> simp [nextPhases]

theorem Change.phase_order {s t : State} (h : Change s t) :
    t.phase ∈ nextPhases s.cfg.photo s.cfg.cut s.phase ∨ (t.phase = .halted ∧ t.err = true) ∨
      ∃ u, t = resetEngine u := by
  cases h with
  | stored | held | moved => exact .inl (mem_nextPhases_self ..)
  | reset => exact .inr (.inr ⟨s, rfl⟩)
  | raised | refused => exact .inr (.inl ⟨raiseErr_phase .., raiseErr_err ..⟩)
  | loaded v phase =>
    obtain ⟨h, -⟩ | ⟨h, -, hphoto⟩ | ⟨h, -, hphoto⟩ := pixelLoaded_phase v phase
    · exact .inl (by simp [h, phase, nextPhases])
    · exact .inl (by simp [h, phase, hphoto, nextPhases])
    · exact .inl (by simp [h, phase, hphoto, nextPhases])
  | cutting phase cut | ended phase cut => exact .inl (by simp [phase, cut, nextPhases])
  | started phase | admitted phase | cumulated phase | remapped phase | dithered phase | binarized phase
      | packed phase | initSent _ phase | imageSent _ _ phase | cutSent _ phase =>
    exact .inl (by simp [phase, nextPhases, imageAdmitted])

/-! The latches (10_state.md R41, R42, R43, R45). -/

theorem Change.latches {s t : State} (h : Change s t) :
    (∃ u, t = resetEngine u) ∨
    ((t.cfg = s.cfg ∨ s.phase = .idle ∧ t.phase = .init) ∧
      ((t.imgW = s.imgW ∧ t.imgH = s.imgH ∧ t.n = s.n ∧ t.canvasW = s.canvasW ∧ t.stride = s.stride ∧
        t.offset = s.offset) ∨ s.phase = .ready) ∧
      (t.effThr = s.effThr ∨ s.phase = .remap ∨ s.phase = .binarize) ∧
      (t.phase = .halted → t.jobActive = s.jobActive)) := by
  cases h with
  | reset => exact .inl ⟨s, rfl⟩
  | raised => exact .inr (by simp)
  | refused _ _ _ _ _ _ _ phase => exact .inr (by simp [phase])
  | stored | held | moved | loaded | cutting | cumulated | dithered | packed | imageSent =>
    exact .inr ⟨.inl rfl, .inl ⟨rfl, rfl, rfl, rfl, rfl, rfl⟩, .inl rfl, fun _ => rfl⟩
  | started phase =>
    exact .inr ⟨.inr ⟨phase, rfl⟩, .inl ⟨rfl, rfl, rfl, rfl, rfl, rfl⟩, .inl rfl, fun _ => rfl⟩
  | admitted phase => exact .inr ⟨.inl rfl, .inr phase, .inl rfl, fun _ => rfl⟩
  | remapped phase =>
    exact .inr ⟨.inl rfl, .inl ⟨rfl, rfl, rfl, rfl, rfl, rfl⟩, .inr (.inl phase), fun _ => rfl⟩
  | binarized phase =>
    exact .inr ⟨.inl rfl, .inl ⟨rfl, rfl, rfl, rfl, rfl, rfl⟩, .inr (.inr phase), fun _ => rfl⟩
  | ended | initSent | cutSent => exact .inr ⟨.inl rfl, .inl ⟨rfl, rfl, rfl, rfl, rfl, rfl⟩, .inl rfl, nofun⟩

end Sys2Proof.Machine

/-! PROOFS. Resets, and the fields of the registers (10_state.md R32 to R36, R54). -/

namespace Sys2Proof.Machine

open Sys2Proof.Claims

theorem resetOf_resetEngine (s : State) : ResetOf s (resetEngine s) := by
  unfold ResetOf
  simp [State.reset, statusWord, State.busy, Phase.busy, Phase.code, ErrKind.code]

theorem ltableCie_mono (i : Fin 255) : (ltableCie[i.val]).toNat ≤ (ltableCie[i.val + 1]).toNat := by
  have chain : ltableCie.toList.IsChain fun a b => a.toNat ≤ b.toNat := by decide +kernel
  have hi : i.val + 1 < ltableCie.toList.length := by simp; omega
  simpa using List.isChain_iff_getElem.mp chain i.val hi

/-- The parameters of the reference machine meet the spec's constraints (00_scope.md R9, R10, R12). -/
theorem reference_wf : Config.reference.Wf where
  gs8l_pos := by decide
  gs8l_fits := by decide
  ltable_mono := ltableCie_mono
  ltable_zero := by decide +kernel
  ltable_last := by decide +kernel
  lfCap_pos := by decide
  canvasCap_pos := by decide
  regSize_min := by decide

/-- Masking with the lowest `n` bits is the remainder modulo `2 ^ n`. -/
theorem and_lowMask (d mask : Word) (n : Nat) (h : mask.toNat = 2 ^ n - 1) :
    d &&& mask = BitVec.ofNat 32 (d.toNat % 2 ^ n) := by
  apply BitVec.eq_of_toNat_eq
  have hle : d.toNat % 2 ^ n ≤ d.toNat := Nat.mod_le ..
  rw [BitVec.toNat_and, h, Nat.and_two_pow_sub_one_eq_mod, BitVec.toNat_ofNat]
  omega

/-- WIDTH.W and HEIGHT.H as numbers (30_encoding.md R92). -/
theorem sizeField_toNat (v : Word) : (sizeField v).toNat = v.toNat % 65536 := by
  simp [sizeField]

/-- CTRL.ALIGN as a number (10_state.md R34). -/
theorem alignOf_cases (v : Word) :
    (v.toNat / 8 % 4 = 0 → alignOf (v.extractLsb' 3 2) = .unset) ∧
    (v.toNat / 8 % 4 = 1 → alignOf (v.extractLsb' 3 2) = .left) ∧
    (v.toNat / 8 % 4 = 2 → alignOf (v.extractLsb' 3 2) = .center) ∧
    (v.toNat / 8 % 4 = 3 → alignOf (v.extractLsb' 3 2) = .right) := by
  have field : v.extractLsb' 3 2 = BitVec.ofNat 2 (v.toNat / 8 % 4) := by
    apply BitVec.eq_of_toNat_eq
    simp [Nat.shiftRight_eq_div_pow]
  rw [field]
  exact ⟨fun h => by rw [h]; rfl, fun h => by rw [h]; rfl, fun h => by rw [h]; rfl, fun h => by rw [h]; rfl⟩

end Sys2Proof.Machine

/-! The obligations of the family 10_state.md. -/

section StateObligations

open Sys2Proof Sys2Proof.Machine Sys2Proof.Claims

/-- Settles O48: every change of a step keeps the invariant. -/
theorem stepKeepsInvariant : Obligations.StepKeepsInvariant := by
  intro s t hs h
  obtain ⟨v, -, inv, change⟩ := step_change hs h
  exact change.inv inv

/-- Settles O50: an accepted pixel is counted once, and no counter wraps. -/
theorem stepKeepsHistogramCounts : Obligations.StepKeepsHistogramCounts := by
  intro s t hs hc h
  obtain ⟨v, same, inv, change⟩ := step_change hs h
  have counts : v.HistCounts := by rw [same.eq]; exact hc
  exact change.histCounts inv counts

/-- Settles O54: each change's phase is one the rules list. -/
theorem phasesInOrder : Obligations.PhasesInOrder := by
  intro s t hs h
  obtain ⟨v, same, -, change⟩ := step_change hs h
  rw [same.symm.eq]
  exact change.phase_order

/-- Settles O18: an image that fits is latched with nothing narrowed. -/
theorem imageAdmits : Obligations.ImageAdmits := by
  intro x s hp he hw hh hw512 hlf hcanvas
  have hbusy : s.busy = false := by rw [State.busy, hp]; rfl
  have width : (sizeField s.width).toNat = regW s := sizeField_toNat s.width
  have height : (sizeField s.height).toNat = regH s := sizeField_toNat s.height
  have stride : canvasWidth (regW s) / 8 = (regW s + 7) / 8 := Nat.mul_div_cancel _ (by decide)
  have fits : s.ImageFits :=
    ⟨by rwa [width], by rwa [height], by rwa [width], by rwa [width, height], by rwa [width, height, stride]⟩
  have run : exec (.image x) s = .next (imageAdmitted s) := by
    rw [← admitImage_of_fits hp fits]
    exact gated_run (run := fun s => .next (admitImage s)) hbusy he
  have imgW : (imageAdmitted s).imgW.toNat = regW s := width
  have imgH : (imageAdmitted s).imgH.toNat = regH s := height
  obtain ⟨-, -, -, n_eq, canvasW_eq, stride_eq, offset_eq, -, -⟩ := imageAdmitted_admitted fits
  rw [imgW] at canvasW_eq
  rw [canvasW_eq] at stride_eq offset_eq
  refine ⟨imageAdmitted s, run, rfl, imgW, imgH, by rw [n_eq, imgW, imgH], canvasW_eq, stride_eq.trans stride,
    offset_eq, fun v hv => ?_⟩
  exact (s.hist.read_zero 256 v).trans (if_pos hv)

/-- Settles O55: each change's frame shows which latch it leaves. -/
theorem latchesHold : Obligations.LatchesHold := by
  intro s t hs h
  obtain ⟨v, same, -, change⟩ := step_change hs h
  rw [same.symm.eq]
  exact change.latches

/-- Settles O10: the first turn is a power-on reset, or there is neither a host move nor an engine move. -/
theorem powerOnResetsAndIdleWaits : Obligations.PowerOnResetsAndIdleWaits := by
  refine ⟨fun s ts hts => ?_, fun s hbusy ⟨hturns, hhost, hheld⟩ => ?_⟩
  · have run : step s = .next (resetEngine { s with turns := ts }) := by simp [step, chooseMove, hts, makeMove]
    exact ⟨_, run, rfl, resetOf_resetEngine { s with turns := ts }⟩
  · have noMove : hostMove s = none := by simp [hostMove, hheld, hhost]
    rw [step, chooseMove_idle hturns hbusy, noMove]
    rfl

/-- Settles O11: each register's mask keeps its lowest bits. -/
theorem registerWritesStore : Obligations.RegisterWritesStore := by
  intro d s
  rw [← and_lowMask d ctrlMask 5 rfl, ← and_lowMask d threshMask 8 rfl, ← and_lowMask d sizeMask 16 rfl]
  exact ⟨rfl, rfl, rfl, rfl⟩

/-- Settles O12: `exec` answers the state it was given. -/
theorem otherWritesIgnored : Obligations.OtherWritesIgnored := fun _ _ _ => ⟨rfl, rfl, rfl⟩

/-- Settles O15: every holdable write goes through the gate. -/
theorem writesHeldWhileBusy : Obligations.WritesHeldWhileBusy := by
  intro i s hi hbusy
  obtain ⟨run, hrun⟩ := exec_gated hi
  rw [hrun, gated_busy hbusy]

/-- Settles O17: in IDLE nothing holds the command, and CTRL and THRESH give the latch's fields. -/
theorem jobStartLatchesConfiguration : Obligations.JobStartLatchesConfiguration := by
  intro x s hp he
  have hbusy : s.busy = false := by rw [State.busy, hp]; rfl
  have run : exec (.jobStart x) s =
      .next { s with cfg := jobCfgOf s.ctrl s.thresh, phase := .init, pos := .start } := by
    have gate : exec (.jobStart x) s = .next (startJob s) :=
      gated_run (run := fun s => .next (startJob s)) hbusy he
    rw [gate, startJob, if_neg (not_not.mpr hp)]
  obtain ⟨unset, left, center, right⟩ := alignOf_cases s.ctrl
  have thr : s.thresh.extractLsb' 0 8 = BitVec.ofNat 8 s.thresh.toNat := by
    apply BitVec.eq_of_toNat_eq; simp
  exact ⟨_, run, rfl, rfl, rfl, rfl, unset, left, center, right, thr⟩

/-- Settles O21: the values of `State.reset`, with the outside world as it was. -/
theorem softResetResets : Obligations.SoftResetResets := fun _ s => ⟨_, rfl, rfl, resetOf_resetEngine s⟩

/-- Settles O47: the state after reset is what a reset leaves of the reference machine. -/
theorem resetMeetsInvariant : Obligations.ResetMeetsInvariant :=
  resetEngine_inv (s := { State.reset with draws := 0 }) reference_wf

end StateObligations

/-! PROOFS. The host's moves: an access it makes, an access that is refused, and a held write (20_memory.md R77, R81;
40_host_commands.md R131). -/

namespace Sys2Proof.Machine

theorem hostMove_access {s : State} {a : BusAccess} {rest : List BusAccess} (hheld : s.held = none)
    (hhost : s.host = a :: rest) : hostMove s = some (.access a, { s with host := rest }) := by
  simp [hostMove, hheld, hhost]

theorem hostMove_held_busy {s : State} {i : Instr} (hheld : s.held = some i) (hb : s.busy = true) :
    hostMove s = none := by
  simp [hostMove, hheld, hb]

theorem hostMove_held_idle {s : State} {i : Instr} (hheld : s.held = some i) (hb : s.busy = false) :
    hostMove s = some (.complete i, { s with held := none }) := by
  simp [hostMove, hheld, hb]

theorem engineMove_idle {s : State} (hb : s.busy = false) : engineMove s = none := by
  simp [engineMove, hb]

theorem chooseMove_hostTurn {s : State} {ts : List Turn} (ht : s.turns = .host :: ts) :
    chooseMove s = preferred (hostMove { s with turns := ts }) (engineMove { s with turns := ts })
      { s with turns := ts } := by
  rw [chooseMove, ht]

theorem chooseMove_engineTurn {s : State} {ts : List Turn} (ht : s.turns = .engine :: ts) :
    chooseMove s = preferred (engineMove { s with turns := ts }) (hostMove { s with turns := ts })
      { s with turns := ts } := by
  rw [chooseMove, ht]

/-- Where one agent has no move, its turn is the other's (40_host_commands.md R131). -/
theorem preferred_none (m : Option (Move × State)) (s : State) : preferred none m s = preferred m none s := by
  cases m <;> rfl

theorem step_hostTurn_access {s : State} {a : BusAccess} {rest : List BusAccess} {ts : List Turn}
    (hheld : s.held = none) (hhost : s.host = a :: rest) (ht : s.turns = .host :: ts) :
    step s = runFetched (.bus a) { s with host := rest, turns := ts } := by
  rw [step, chooseMove_hostTurn ht, hostMove_access (s := { s with turns := ts }) hheld hhost]
  rfl

theorem runFetched_error {f : Fetch} {s : State} {e : DecodeError} (h : decode s.conf f = .error e) :
    runFetched f s = .refused (refusalOf e) := by
  rw [runFetched, h]

theorem decode_narrow {c : Config} {a : BusAccess} (h : a.size ≠ .word) :
    decode c (.bus a) = .error .narrowAccess := by
  rw [decode, decodeBus, if_pos h]

theorem decode_misaligned {c : Config} {a : BusAccess} (h : a.size = .word) (h4 : a.off.toNat % 4 ≠ 0) :
    decode c (.bus a) = .error .misalignedAccess := by
  rw [decode, decodeBus, if_neg (not_not.mpr h), if_pos h4]

/-- A held write waits while BUSY, so the host's turn is the engine's. -/
theorem step_held_busy {s : State} {i : Instr} {ts : List Turn} (hheld : s.held = some i) (hb : s.busy = true)
    (ht : s.turns = .host :: ts) : step s = step { s with turns := .engine :: ts } := by
  have blocked : hostMove { s with turns := ts } = none := hostMove_held_busy hheld hb
  rw [step, step, chooseMove_hostTurn ht, chooseMove_engineTurn (s := { s with turns := .engine :: ts }) rfl, blocked,
    preferred_none]

theorem step_held_busy_noTurn {s : State} {i : Instr} (hheld : s.held = some i) (hb : s.busy = true)
    (ht : s.turns = []) : step s = step { s with turns := [.engine] } := by
  have same : s = { s with turns := [] } := by rw [← ht]
  rw [step, step, chooseMove_engine_alone ht hb (hostMove_held_busy hheld hb),
    chooseMove_engine (s := { s with turns := [.engine] }) rfl hb, ← same]

/-- Once BUSY = 0 the engine has no move, and the held write takes effect on either agent's turn. -/
theorem step_held_idle {s : State} {i : Instr} {ts : List Turn} (hheld : s.held = some i) (hb : s.busy = false)
    (ht : s.turns = .host :: ts ∨ s.turns = .engine :: ts) :
    step s = exec i { s with held := none, turns := ts } := by
  have complete : hostMove { s with turns := ts } = some (.complete i, { s with held := none, turns := ts }) :=
    hostMove_held_idle (s := { s with turns := ts }) hheld hb
  have idle : engineMove { s with turns := ts } = none := engineMove_idle hb
  obtain ht | ht := ht
  · rw [step, chooseMove_hostTurn ht, complete]
    rfl
  · rw [step, chooseMove_engineTurn ht, complete, idle]
    rfl

theorem step_held_idle_noTurn {s : State} {i : Instr} (hheld : s.held = some i) (hb : s.busy = false)
    (ht : s.turns = []) : step s = exec i { s with held := none } := by
  rw [step, chooseMove_idle ht hb, hostMove_held_idle hheld hb]
  rfl

end Sys2Proof.Machine

/-! PROOFS. Where an emission operation goes on from: the start of its phase, before a frame, inside one
(46_frame_encoder.md R251, R254, R262). -/

namespace Sys2Proof.Machine

theorem exec_initEmit (s : State) : exec .initEmit s = emitFrom .init (fun s => s) s := rfl

theorem exec_emit (s : State) :
    exec .emit s = emitFrom (firstFrame s) (fun s => chunkStart { s with row0 := 0 }) s := rfl

theorem exec_cutEmit (s : State) : exec .cutEmit s = emitFrom .cut (fun s => s) s := rfl

theorem emitFrom_start {first : FrameKind} {ready : State → State} {s : State} (h : s.pos = .start) :
    emitFrom first ready s = beginFrame first (ready s) := by rw [emitFrom, h]

theorem emitFrom_before {first kind : FrameKind} {ready : State → State} {s : State} (h : s.pos = .before kind) :
    emitFrom first ready s = beginFrame kind s := by rw [emitFrom, h]

theorem emitFrom_inside {first kind : FrameKind} {ready : State → State} {s : State} {bytes : List Byte}
    (h : s.pos = .inside kind bytes) : emitFrom first ready s = .next (sendBytes kind bytes s) := by
  rw [emitFrom, h]

end Sys2Proof.Machine

/-! PROOFS. No operation faults where the invariant holds (20_memory.md R80; 60_exceptions.md R299). -/

namespace Sys2Proof.Machine

/-! What the host asks for. -/

theorem gated_ne_fault {i : Instr} {run : State → Result} {s : State} {f : Fault} (h : run s ≠ .fault f) :
    gated i run s ≠ .fault f := by
  unfold gated
  split_ifs
  · exact nofun
  · exact nofun
  · exact h

/-- An image being loaded has room for its next pixel (41_color_reducer.md R170, R171). -/
theorem reduceStep_ne_fault {s : State} (hs : s.Inv) (hp : s.phase = .load) (r g b a : Byte) (f : Fault) :
    reduceStep r g b a s ≠ .fault f := by
  obtain ⟨hli, -⟩ : s.li.toNat < s.n.toNat ∧ s.histMode = .count := hs.progress_at .load hp
  have hn : s.n.toNat ≤ s.conf.lfCap := (hs.admitted_at hp rfl).fits_lf
  unfold reduceStep
  rw [if_neg (by omega)]
  exact nofun

/-- PIXIN is the one write of the host that checks an index. -/
theorem host_exec_ne_fault {i : Instr} {s : State} (hs : s.Inv) (hi : fromHost i = true) (f : Fault) :
    exec i s ≠ .fault f := by
  cases i
  case nop x => exact gated_ne_fault (i := .nop x) (run := fun s => .next s) nofun
  case jobStart x => exact gated_ne_fault (i := .jobStart x) (run := fun s => .next (startJob s)) nofun
  case image x => exact gated_ne_fault (i := .image x) (run := fun s => .next (admitImage s)) nofun
  case jobEnd x => exact gated_ne_fault (i := .jobEnd x) (run := fun s => .next (endJob s)) nofun
  case reserved4 | reserved5 | reserved6 | reserved7 | reserved8 | reserved9 | reservedA | reservedB | reservedC
      | reservedD | reservedE =>
    exact gated_ne_fault (run := fun s => .next (raiseErr .commandError s)) nofun
  case pix r g b a =>
    refine gated_ne_fault (i := .pix r g b a)
      (run := fun s => if s.phase ≠ .load then .next (raiseErr .commandError s) else reduceStep r g b a s) ?_
    split_ifs with hp
    · exact nofun
    · exact reduceStep_ne_fault hs (not_not.mp hp) r g b a f
  case wrCtrl | wrThresh | wrWidth | wrHeight | wrStatus | wrEffThresh | wrUnmapped | rdCtrl | rdThresh | rdWidth
      | rdHeight | rdCmd | rdStatus | rdPixin | rdEffThresh | rdUnmapped | softReset =>
    exact nofun
  all_goals exact absurd hi Bool.false_ne_true

/-! The passes over an admitted image. -/

theorem State.Admitted.pixels_pos {s : State} (h : s.Admitted) : 0 < s.n.toNat :=
  h.n_eq ▸ Nat.mul_pos h.width_pos h.height_pos

theorem State.Admitted.canvasW_rows {s : State} (h : s.Admitted) :
    s.canvasW.toNat = s.stride.toNat * 8 ∧ s.imgW.toNat ≤ s.canvasW.toNat := by
  rw [h.stride_eq, h.canvasW_eq, canvasWidth]
  omega

/-- The last pixel's byte is the last one of the rows that fit the canvas (45_bit_packer.md R232, R234). -/
theorem State.Admitted.packInRange {s : State} (h : s.Admitted) : packInRange s = true := by
  obtain ⟨hcw, hle⟩ := h.canvasW_rows
  have hpos := h.pixels_pos
  have column : (s.imgW.toNat - 1) / 8 < s.stride.toNat := by
    have := h.width_pos
    omega
  have row : (s.n.toNat - 1) / s.imgW.toNat < s.imgH.toNat := by
    rw [Nat.div_lt_iff_lt_mul h.width_pos, Nat.mul_comm, ← h.n_eq]
    omega
  have byte : canvasByte s.canvasW.toNat (s.imgW.toNat - 1) ((s.n.toNat - 1) / s.imgW.toNat) < s.conf.canvasCap := by
    rw [hcw, canvasByte_eq]
    exact Nat.lt_of_lt_of_le (index_lt column row) h.fits_canvas
  simp [Machine.packInRange, h.fits_canvas, byte]

theorem execRemap_ne_fault {s : State} (h : s.Admitted) (f : Fault) : exec .remap s ≠ .fault f := by
  change execRemap s ≠ _
  rw [execRemap, if_neg (Nat.ne_of_gt h.pixels_pos), if_neg (Nat.not_lt.mpr h.fits_lf)]
  exact nofun

theorem execDither_ne_fault {s : State} (h : s.Admitted) (f : Fault) : exec .dither s ≠ .fault f := by
  change execDither s ≠ _
  rw [execDither, if_neg (Nat.not_lt.mpr (h.n_eq ▸ h.fits_lf))]
  exact nofun

theorem execBinarize_ne_fault {s : State} (h : s.Admitted) (f : Fault) : exec .binarize s ≠ .fault f := by
  change execBinarize s ≠ _
  rw [execBinarize, if_neg (Nat.not_lt.mpr h.fits_lf)]
  exact nofun

theorem execPack_ne_fault {s : State} (h : s.Admitted) (f : Fault) : exec .pack s ≠ .fault f := by
  change execPack s ≠ _
  rw [execPack, if_neg (fun hw => Nat.ne_of_gt h.width_pos hw.2), if_neg (Nat.not_lt.mpr h.fits_lf),
    if_neg (by simp [h.packInRange])]
  exact nofun

/-! The frames. -/

/-- A chunk in progress ends inside the image, whose rows fit the canvas (46_frame_encoder.md R253, R256). -/
theorem State.ChunkOk.payload_fits {s : State} (hc : s.ChunkOk) (h : s.Admitted) :
    (s.row0.toNat + s.k.toNat) * s.stride.toNat ≤ s.conf.canvasCap := by
  obtain ⟨hrow, hk⟩ := hc
  have hle : s.k.toNat ≤ s.imgH.toNat - s.row0.toNat := hk ▸ Nat.min_le_right ..
  calc (s.row0.toNat + s.k.toNat) * s.stride.toNat
      ≤ s.imgH.toNat * s.stride.toNat := Nat.mul_le_mul_right _ (by omega)
    _ = s.stride.toNat * s.imgH.toNat := Nat.mul_comm ..
    _ ≤ s.conf.canvasCap := h.fits_canvas

theorem beginFrame_ne_fault {kind : FrameKind} {s : State} (hs : s.Inv) (hk : s.Sends kind) (f : Fault) :
    beginFrame kind s ≠ .fault f := by
  rw [beginFrame_next]
  · exact nofun
  · rintro rfl
    obtain ⟨hp, hchunk⟩ := hk
    exact hchunk.payload_fits (hs.admitted_at hp rfl)

/-- Going on with a frame never faults; only beginning one can. -/
theorem emitFrom_ne_fault {first : FrameKind} {ready : State → State} {s : State} {f : Fault}
    (start : s.pos = .start → beginFrame first (ready s) ≠ .fault f)
    (before : ∀ kind, s.pos = .before kind → beginFrame kind s ≠ .fault f) :
    emitFrom first ready s ≠ .fault f := by
  unfold emitFrom
  split
  · exact start ‹_›
  · exact before _ ‹_›
  · exact nofun

theorem emitFrom_bracket_ne_fault {kind : FrameKind} {s : State} (hs : s.Inv) (hk : s.Sends kind)
    (hpos : s.pos = .start ∨ s.pos.within kind) (f : Fault) : emitFrom kind (fun s => s) s ≠ .fault f := by
  refine emitFrom_ne_fault (fun _ => beginFrame_ne_fault hs hk f) fun kind' hbefore => ?_
  obtain hstart | ⟨rest, -, hwithin⟩ := hpos
  · exact nomatch hbefore.symm.trans hstart
  · exact nomatch hbefore.symm.trans hwithin

theorem execEmit_ne_fault {s : State} (hs : s.Inv) (hp : s.phase = .emit) (f : Fault) : exec .emit s ≠ .fault f := by
  rw [exec_emit]
  refine emitFrom_ne_fault (fun _ => ?_) fun kind hbefore => ?_
  · obtain ⟨inv, sends⟩ := chunkStart_first hs hp
    exact beginFrame_ne_fault inv sends f
  · obtain hstart | ⟨hin, hrows⟩ := hs.encoder_at .emit hp
    · exact nomatch hbefore.symm.trans hstart
    · obtain ⟨kind', sends, hpos | ⟨rest, -, hpos⟩⟩ := sends_of_inChunk hp hin hrows
      · cases hbefore.symm.trans hpos
        exact beginFrame_ne_fault hs sends f
      · exact nomatch hbefore.symm.trans hpos

/-! The step. -/

theorem phaseOp_ne_fault {s : State} (hs : s.Inv) (hb : s.busy = true) (f : Fault) :
    exec (phaseOp s.phase) s ≠ .fault f := by
  cases hp : s.phase
  case idle | ready | load | halted => simp [State.busy, Phase.busy, hp] at hb
  case cdf => exact nofun
  case remap => exact execRemap_ne_fault (hs.admitted_at hp rfl) f
  case dither => exact execDither_ne_fault (hs.admitted_at hp rfl) f
  case binarize => exact execBinarize_ne_fault (hs.admitted_at hp rfl) f
  case pack => exact execPack_ne_fault (hs.admitted_at hp rfl) f
  case emit => exact execEmit_ne_fault hs hp f
  case init => exact emitFrom_bracket_ne_fault (kind := .init) hs hp (hs.encoder_at .init hp) f
  case cut => exact emitFrom_bracket_ne_fault (kind := .cut) hs hp (hs.encoder_at .cut hp) f

theorem step_ne_fault {s : State} (hs : s.Inv) (f : Fault) : step s ≠ .fault f := by
  obtain ⟨u, same, effect⟩ := step_cases s
  have hu : u.Inv := same.inv hs
  generalize step s = result at effect
  cases effect with
  | wait => exact nofun
  | powerOn => exact nofun
  | complete i held => exact host_exec_ne_fault hu (fromHost_of_isHoldable (hs.held_ok i held)) f
  | access i host => exact host_exec_ne_fault hu host f
  | refused e => exact nofun
  | operate busy =>
    have hp : u.phase = s.phase := by rw [same.eq]
    have hb : u.busy = true := by rw [State.busy, hp]; exact busy
    rw [← hp]
    exact phaseOp_ne_fault hu hb f

end Sys2Proof.Machine

/-! PROOFS. The stream and the parameters through every step (20_memory.md R76; 10_state.md R54). -/

namespace Sys2Proof.Machine

/-- `t` has the parameters and the stream of `s`. -/
structure StreamKept (s t : State) : Prop where
  conf : t.conf = s.conf
  out : t.out = s.out

/-- `t` has the parameters of `s`, and its stream with at most one byte more. -/
structure StreamGrows (s t : State) : Prop where
  conf : t.conf = s.conf
  out : ∃ bytes, bytes.length ≤ 1 ∧ t.out = s.out ++ bytes

theorem StreamKept.grows {s t : State} (h : StreamKept s t) : StreamGrows s t :=
  ⟨h.conf, [], Nat.zero_le 1, by simp [h.out]⟩

theorem StreamGrows.of_kept {s u t : State} (h : StreamGrows u t) (hu : StreamKept s u) : StreamGrows s t := by
  obtain ⟨conf, bytes, hlen, out⟩ := h
  exact ⟨conf.trans hu.conf, bytes, hlen, hu.out ▸ out⟩

theorem SameEngine.streamKept {s u : State} (h : SameEngine s u) : StreamKept s u := by
  rw [h.eq]
  exact ⟨rfl, rfl⟩

/-! What sends nothing. -/

theorem HostEffect.streamKept {i : Instr} {s t : State} (h : HostEffect i s t) : StreamKept s t := by
  cases h with
  | stored | reset | held => exact ⟨rfl, rfl⟩
  | raised => exact ⟨raiseErr_conf .., raiseErr_out ..⟩
  | started =>
    unfold startJob
    split <;> exact ⟨by simp, by simp⟩
  | admitted =>
    obtain ⟨-, e⟩ | ⟨-, -, k, w, ht, n, cw, st, -, e⟩ | ⟨-, -, e⟩ := admitImage_cases s <;> rw [e]
    · exact ⟨raiseErr_conf .., raiseErr_out ..⟩
    · exact ⟨raiseErr_conf .., raiseErr_out ..⟩
    · exact ⟨rfl, rfl⟩
  | ended =>
    unfold endJob
    split_ifs <;> exact ⟨by simp, by simp⟩
  | reduced _ _ _ _ _ _ run =>
    rw [reduceStep_next run]
    exact ⟨rfl, rfl⟩

/-- The operations that offer bytes to the sink (20_memory.md R75). -/
def offersBytes (i : Instr) : Bool :=
  match i with
  | .emit | .initEmit | .cutEmit | .frameInit | .frameMargin _ | .frameStore _ _ _ | .frameFlush | .frameCut => true
  | _ => false

theorem offersBytes_of_fromHost {i : Instr} (h : fromHost i = true) : offersBytes i = false := by
  cases i <;> first | rfl | exact absurd h Bool.false_ne_true

theorem offersBytes_phaseOp {p : Phase} (h : offersBytes (phaseOp p) = true) :
    p = .init ∨ p = .emit ∨ p = .cut := by
  cases p
  case init => exact .inl rfl
  case emit => exact .inr (.inl rfl)
  case cut => exact .inr (.inr rfl)
  all_goals exact absurd h Bool.false_ne_true

theorem exec_streamKept {i : Instr} {s t : State} (hi : offersBytes i = false) (h : exec i s = .next t) :
    StreamKept s t := by
  cases i
  case reduce r g b a =>
    rw [reduceStep_next (r := r) (g := g) (b := b) (a := a) h]
    exact ⟨rfl, rfl⟩
  case cdf => cases h; exact ⟨rfl, rfl⟩
  case remap | dither | binarize | pack =>
    simp only [exec, execRemap, execDither, execBinarize, execPack] at h
    split_ifs at h
    cases h
    exact ⟨rfl, rfl⟩
  case emit | initEmit | cutEmit | frameInit | frameMargin | frameStore | frameFlush | frameCut =>
    exact absurd hi.symm Bool.false_ne_true
  all_goals exact (host_exec_cases rfl h).streamKept

/-! What sends. -/

theorem sendBytes_grows (kind : FrameKind) (bytes : List Byte) (s : State) :
    StreamGrows s (sendBytes kind bytes s) := by
  refine ⟨sendBytes_conf .., ?_⟩
  cases bytes with
  | nil => exact ⟨[], Nat.zero_le 1, by simp [sendBytes]⟩
  | cons b rest =>
    obtain ⟨-, -, e⟩ | ⟨-, -, e⟩ | ⟨-, e⟩ | ⟨-, e⟩ := sendBytes_cases kind b rest s <;> rw [e]
    · exact ⟨[b], Nat.le_refl 1, frameDone_out ..⟩
    · exact ⟨[b], Nat.le_refl 1, rfl⟩
    · exact ⟨[], Nat.zero_le 1, by simp⟩
    · exact ⟨[], Nat.zero_le 1, by simp⟩

theorem emitFrom_grows {first : FrameKind} {ready : State → State} {s t : State} (hr : StreamKept s (ready s))
    (h : emitFrom first ready s = .next t) : StreamGrows s t := by
  obtain ⟨-, rfl⟩ | ⟨kind, -, rfl⟩ | ⟨kind, rest, -, rfl⟩ := emitFrom_cases h
  · exact (sendBytes_grows ..).of_kept hr
  · exact sendBytes_grows ..
  · exact sendBytes_grows ..

theorem exec_grows {i : Instr} {s t : State} (h : exec i s = .next t) : StreamGrows s t := by
  cases hi : offersBytes i
  case false => exact (exec_streamKept hi h).grows
  cases i
  case emit => exact emitFrom_grows ⟨rfl, rfl⟩ (exec_emit s ▸ h)
  case initEmit => exact emitFrom_grows ⟨rfl, rfl⟩ (exec_initEmit s ▸ h)
  case cutEmit => exact emitFrom_grows ⟨rfl, rfl⟩ (exec_cutEmit s ▸ h)
  case frameInit | frameMargin | frameStore | frameFlush | frameCut =>
    cases h
    exact sendBytes_grows ..
  all_goals exact absurd hi Bool.false_ne_true

/-! The step. -/

theorem step_grows {s t : State} (h : step s = .next t) : StreamGrows s t := by
  obtain ⟨u, same, effect⟩ := step_cases s
  refine StreamGrows.of_kept ?_ same.streamKept
  generalize step s = result at h effect
  cases effect with
  | wait => cases h; exact StreamKept.grows ⟨rfl, rfl⟩
  | powerOn => cases h; exact StreamKept.grows ⟨rfl, rfl⟩
  | refused => cases h
  | complete | access | operate => exact exec_grows h

/-- Outside the three emission phases a step sends nothing: the host can make no access that does. -/
theorem step_streamKept {s t : State} (hs : s.Inv) (hp : ¬ (s.phase = .init ∨ s.phase = .emit ∨ s.phase = .cut))
    (h : step s = .next t) : StreamKept s t := by
  obtain ⟨u, same, effect⟩ := step_cases s
  suffices StreamKept u t from ⟨this.conf.trans same.streamKept.conf, this.out.trans same.streamKept.out⟩
  generalize step s = result at h effect
  cases effect with
  | wait => cases h; exact ⟨rfl, rfl⟩
  | powerOn => cases h; exact ⟨rfl, rfl⟩
  | refused => cases h
  | complete i held =>
    exact exec_streamKept (offersBytes_of_fromHost (fromHost_of_isHoldable (hs.held_ok i held))) h
  | access i host => exact exec_streamKept (offersBytes_of_fromHost host) h
  | operate => exact exec_streamKept (by simpa using mt offersBytes_phaseOp hp) h

end Sys2Proof.Machine

/-! PROOFS. One offered byte, where a frame begins, inside it, and for a frame as an operation (20_memory.md R75;
46_frame_encoder.md R261; 60_exceptions.md R296). -/

namespace Sys2Proof.Machine

open Sys2Proof.Claims

/-- The first error is recorded (60_exceptions.md R292). -/
theorem raiseErr_first {k : ErrKind} {s : State} (h : s.err = false) : raiseErr k s = halted k s := by
  simp [raiseErr, halted, h]

/-- What each answer leaves of an operation that offers `b` before `rest`. -/
theorem answer_cases {r : Result} {s : State} {kind : FrameKind} {b : Byte} {rest : List Byte}
    {answers : List SinkAnswer} (run : r = .next (sendBytes kind (b :: rest) s)) :
    (s.sink = .accept :: answers → rest ≠ [] →
      r = .next { s with sink := answers, out := s.out ++ [b], pos := .inside kind rest }) ∧
    (s.sink = .stall :: answers → r = .next { s with sink := answers, pos := .inside kind (b :: rest) }) ∧
    (s.sink = .fail :: answers → s.err = false →
      r = .next (halted .sinkWriteFailure { s with sink := answers })) := by
  subst run
  refine ⟨fun hsink hrest => ?_, fun hsink => ?_, fun hsink herr => ?_⟩
  · simp [sendBytes, drawAnswer_cons hsink, hrest]
  · simp [sendBytes, drawAnswer_cons hsink]
  · rw [← raiseErr_first (s := { s with sink := answers }) herr]
    simp [sendBytes, drawAnswer_cons hsink]

/-- Inside a frame, every emission operation goes on with the bytes left. -/
theorem exec_inside {op : Instr} {s : State} {kind : FrameKind} {bytes : List Byte}
    (hop : op ∈ [Instr.initEmit, .emit, .cutEmit]) (hpos : s.pos = .inside kind bytes) :
    exec op s = .next (sendBytes kind bytes s) := by
  simp only [List.mem_cons, List.not_mem_nil, or_false] at hop
  obtain rfl | rfl | rfl := hop
  · rw [exec_initEmit, emitFrom_inside hpos]
  · rw [exec_emit, emitFrom_inside hpos]
  · rw [exec_cutEmit, emitFrom_inside hpos]

/-- MARGIN only if there is an offset (46_frame_encoder.md R257). -/
theorem firstFrame_eq (s : State) : firstFrame s = if s.offset = 0 then .store else .margin := ite_not ..

/-- Where a frame begins, the emission operation begins it, with the sink, the stream and the error record as they
were. -/
theorem exec_begins {op : Instr} {s u : State} {kind : FrameKind} (h : Begins op s kind u) :
    exec op s = beginFrame kind u ∧ u.sink = s.sink ∧ u.out = s.out ∧ u.err = s.err := by
  obtain ⟨rfl, hpos, rfl, rfl⟩ | ⟨rfl, hpos, rfl, rfl⟩ | ⟨rfl, hpos, rfl⟩ | ⟨rfl, hpos, rfl, rfl⟩ := h
  · exact ⟨by rw [exec_initEmit, emitFrom_start hpos], rfl, rfl, rfl⟩
  · exact ⟨by rw [exec_cutEmit, emitFrom_start hpos], rfl, rfl, rfl⟩
  · exact ⟨by rw [exec_emit, emitFrom_before hpos], rfl, rfl, rfl⟩
  · rw [exec_emit, emitFrom_start hpos, ← firstFrame_eq]
    exact ⟨rfl, rfl, rfl, rfl⟩

/-! The frames as operations (30_encoding.md R101 to R106). -/

/-- A short vector's list, entry by entry. -/
theorem toList_eq_ofFn {n : Nat} (v : Vector Byte n) : v.toList = List.ofFn fun i : Fin n => v[i.val] :=
  List.ext_getElem (by simp) fun i _ _ => by simp

section FrameBytes

variable (c : Config) (v canvasW k : Nat) (payload : List Byte)

theorem initFrame_eq : initFrame c = [c.initBytes[0], c.initBytes[1]] := by
  simp [initFrame, toList_eq_ofFn, List.ofFn_succ]

theorem marginFrame_eq :
    marginFrame c v = [c.marginPrefix[0], c.marginPrefix[1], BitVec.ofNat 8 v, BitVec.ofNat 8 (v / 256)] := by
  simp [marginFrame, le16, toList_eq_ofFn, List.ofFn_succ]

theorem flushFrame_eq :
    flushFrame c = [c.flushBytes[0], c.flushBytes[1], c.flushBytes[2], c.flushBytes[3], c.flushBytes[4],
      c.flushBytes[5], c.flushBytes[6]] := by
  simp [flushFrame, toList_eq_ofFn, List.ofFn_succ]

theorem cutFrame_eq : cutFrame c = [c.cutBytes[0], c.cutBytes[1], c.cutBytes[2], c.cutBytes[3]] := by
  simp [cutFrame, toList_eq_ofFn, List.ofFn_succ]

theorem storeHeader_eq (p : Nat) :
    storeHeader c p canvasW k = [c.storePrefix[0], c.storePrefix[1], c.storePrefix[2], BitVec.ofNat 8 p,
      BitVec.ofNat 8 (p / 256), c.storeMid[0], c.storeMid[1], c.storeMid[2], c.storeMid[3], c.storeMid[4],
      c.storeMid[5], c.storeMid[6], c.storeMid[7], BitVec.ofNat 8 canvasW, BitVec.ofNat 8 (canvasW / 256),
      BitVec.ofNat 8 k, BitVec.ofNat 8 (k / 256)] := by
  simp [storeHeader, le16, toList_eq_ofFn, List.ofFn_succ]

/-- The table of the frames is the table of what their operations send. -/
theorem frameTable_eq (offset canvasW k : BitVec 16) :
    frameTable c offset canvasW k payload =
      [(.frameInit, .init, initFrame c), (.frameMargin offset, .margin, marginFrame c offset.toNat),
        (.frameStore canvasW k payload, .store, storeFrame c canvasW.toNat k.toNat payload),
        (.frameFlush, .flush, flushFrame c), (.frameCut, .cut, cutFrame c)] := by
  rw [initFrame_eq, marginFrame_eq, flushFrame_eq, cutFrame_eq, storeFrame, storeHeader_eq]
  rfl

end FrameBytes

/-- A frame's operation sends the frame's bytes, of which there are at least two. -/
theorem frameTable_run {s : State} {offset canvasW k : BitVec 16} {payload bytes : List Byte} {op : Instr}
    {kind : FrameKind} (h : (op, kind, bytes) ∈ frameTable s.conf offset canvasW k payload) :
    exec op s = .next (sendBytes kind bytes s) ∧ 2 ≤ bytes.length := by
  simp only [frameTable_eq, List.mem_cons, Prod.mk.injEq, List.not_mem_nil, or_false] at h
  obtain ⟨rfl, rfl, rfl⟩ | ⟨rfl, rfl, rfl⟩ | ⟨rfl, rfl, rfl⟩ | ⟨rfl, rfl, rfl⟩ | ⟨rfl, rfl, rfl⟩ := h
  · exact ⟨rfl, by simp⟩
  · exact ⟨rfl, by simp⟩
  · exact ⟨rfl, by rw [storeFrame_length]; omega⟩
  · exact ⟨rfl, by simp⟩
  · exact ⟨rfl, by simp⟩

end Sys2Proof.Machine

/-! The obligations of the family 20_memory.md. -/

section MemoryObligations

open Sys2Proof Sys2Proof.Machine Sys2Proof.Claims

/-- Settles O49: the invariant's geometry, load index and encoder's place keep every index in range. -/
theorem noStepFaults : Obligations.NoStepFaults := fun _ f hs => step_ne_fault hs f

/-- Settles O53: one offer a step, which only the operations of INIT, EMIT and CUT make. -/
theorem streamOnlyGrows : Obligations.StreamOnlyGrows := by
  intro s t h
  obtain ⟨conf, bytes, hlen, out⟩ := step_grows h
  refine ⟨conf, bytes, hlen, out, fun hs hne => by_contra fun hp => hne ?_⟩
  simpa [out] using (step_streamKept hs hp h).out

/-- Settles O56: where a frame begins, its first byte is offered, and no frame has just one. -/
theorem firstByteOffered : Obligations.FirstByteOffered := by
  intro op s u kind answers hbegins hfits
  obtain ⟨run, hsink, hout, herr⟩ := exec_begins hbegins
  obtain ⟨b, rest, hrest, hbytes⟩ := frameBytes_cons kind u
  rw [beginFrame_next hfits, hbytes] at run
  obtain ⟨accept, stall, fail⟩ := answer_cases (answers := answers) run
  rw [hsink, hout] at accept
  rw [hsink] at stall
  rw [hsink, herr] at fail
  exact ⟨b, rest, hrest, hbytes, fun h => accept h hrest, stall, fail⟩

/-- Settles O39: the bytes left are what is offered, and a stall leaves them. -/
theorem oneByteOffered : Obligations.OneByteOffered := by
  intro op s kind b rest answers hop hpos
  obtain ⟨accept, stall, fail⟩ := answer_cases (answers := answers) (exec_inside hop hpos)
  rw [← hpos] at stall
  exact ⟨accept, stall, fail⟩

/-- Settles O42: each operation sends the bytes the table lists. -/
theorem frameOperationsSend : Obligations.FrameOperationsSend := by
  intro s answers offset canvasW k payload op kind b rest h
  obtain ⟨run, hlen⟩ := frameTable_run h
  obtain ⟨accept, stall, fail⟩ := answer_cases (answers := answers) run
  have hrest : rest ≠ [] := by
    rintro rfl
    exact absurd hlen (by simp)
  exact ⟨fun h => accept h hrest, stall, fail⟩

/-- Settles O6: the decoder looks at the access's width, then at its offset, before anything else. -/
theorem narrowAndMisalignedRefused : Obligations.NarrowAndMisalignedRefused := by
  intro s a rest ts hheld hhost ht
  rw [step_hostTurn_access hheld hhost ht]
  exact ⟨fun h => runFetched_error (decode_narrow h), fun h h4 => runFetched_error (decode_misaligned h h4)⟩

/-- Settles O9: the held write is the host's only move, and it has none while BUSY. -/
theorem heldWriteBlocksThenCompletes : Obligations.HeldWriteBlocksThenCompletes := fun _ _ hheld =>
  ⟨fun hb _ => step_held_busy hheld hb, step_held_busy_noTurn hheld, step_held_idle_noTurn hheld,
    fun hb _ => step_held_idle hheld hb⟩

end MemoryObligations

/-! PROOFS. What the encoder writes the decoder reads back, and what the decoder accepts the encoder writes back
(10_state.md R32; 30_encoding.md R91 to R112). -/

namespace Sys2Proof

open Sys2Proof.Claims Sys2Proof.Laws.EncodesLegally

/-! Commands (30_encoding.md R95, R96). -/

/-- A CMD word names the command at its code, whatever it carries above. -/
theorem commands_getElem_code (x : BitVec 28) (code : BitVec 4) :
    (commands x)[code.toNat]? = some (decodeCmd (x ++ code)) := by
  obtain ⟨hcode, hignored⟩ := cmdWord_fields x code
  rw [decodeCmd, hcode, hignored]
  obtain rfl | rfl | rfl | rfl | rfl | rfl | rfl | rfl | rfl | rfl | rfl | rfl | rfl | rfl | rfl | rfl :=
    code_cases code <;> rfl

theorem decode_command {c : Config} (hc : c.Wf) {x : BitVec 28} {code : BitVec 4} {i : Instr}
    (hi : (commands x)[code.toNat]? = some i) : decode c (cmdWrite code x) = .ok i := by
  rw [commands_getElem_code] at hi
  rw [decode_cmdWrite hc, Option.some.inj hi]

/-- The encoder writes each command at its place in the list. -/
theorem encode_command (c : Config) {x : BitVec 28} {code : BitVec 4} {i : Instr}
    (hi : (commands x)[code.toNat]? = some i) : i.wellFormed c = true ∧ encode c i = cmdWrite code x := by
  obtain rfl | rfl | rfl | rfl | rfl | rfl | rfl | rfl | rfl | rfl | rfl | rfl | rfl | rfl | rfl | rfl :=
    code_cases code <;> cases hi <;> exact ⟨rfl, rfl⟩

/-! PIX words. -/

/-- The lanes as digits of the word, base 256, the lowest first (30_encoding.md R93). -/
theorem pixLanes_eq_digits (v : Word) :
    pixR v = BitVec.ofNat 8 v.toNat ∧ pixG v = BitVec.ofNat 8 (v.toNat / 2 ^ 8) ∧
      pixB v = BitVec.ofNat 8 (v.toNat / 2 ^ 16) ∧ pixA v = BitVec.ofNat 8 (v.toNat / 2 ^ 24) := by
  refine ⟨?_, ?_, ?_, ?_⟩ <;> apply BitVec.eq_of_toNat_eq <;>
    simp only [pixR, pixG, pixB, pixA, toNat_field, BitVec.toNat_ofNat, Nat.pow_zero, Nat.div_one]

/-! Bus accesses (30_encoding.md R91; 10_state.md R32). -/

/-- The eight registers, and the rest of the window. -/
theorem register_or_unmapped {off : Word} (h4 : off.toNat % 4 = 0) :
    off = 0x00 ∨ off = 0x04 ∨ off = 0x08 ∨ off = 0x0C ∨ off = 0x10 ∨ off = 0x14 ∨ off = 0x18 ∨ off = 0x1C ∨
      0x20 ≤ off.toNat := by
  bv_omega

section Unmapped

variable {off : Word} (h : 0x20 ≤ off.toNat)

include h

theorem ne_register (k : Word) (hk : k.toNat < 0x20) : off ≠ k := by
  rintro rfl
  omega

theorem decodeWrite_unmapped (data : Word) : decodeWrite off data = .wrUnmapped off data := by
  simp [decodeWrite, ne_register h]

theorem decodeRead_unmapped : decodeRead off = .rdUnmapped off := by
  simp [decodeRead, ne_register h]

end Unmapped

/-- What an accepted access is. -/
theorem decode_bus_ok {c : Config} {a : BusAccess} {i : Instr} (h : decode c (.bus a) = .ok i) :
    a.size = .word ∧ a.off.toNat % 4 = 0 ∧ a.off.toNat < c.regSize ∧
      i = (match a.dir with | .write => decodeWrite a.off a.data | .read => decodeRead a.off) := by
  rw [decode, decodeBus] at h
  split_ifs at h with hsize h4 hlt
  refine ⟨not_not.mp hsize, not_not.mp h4, Nat.not_le.mp hlt, ?_⟩
  cases hd : a.dir <;> rw [hd] at h <;> cases h <;> rfl

theorem encode_decodeCmd (c : Config) (data : Word) :
    (decodeCmd data).wellFormed c = true ∧ encode c (decodeCmd data) = .bus (.wr 0x10 data) := by
  have h := encode_command c (commands_getElem_code (data.extractLsb' 4 28) (data.extractLsb' 0 4))
  rwa [cmdWrite, cmdWord_of_fields] at h

section Accepted

variable {c : Config} {off : Word} (h4 : off.toNat % 4 = 0) (hl : off.toNat < c.regSize)

include h4 hl

/-- The encoder writes back the register and the data that the decoder read from a write. -/
theorem encode_decodeWrite (data : Word) :
    (decodeWrite off data).wellFormed c = true ∧ encode c (decodeWrite off data) = .bus (.wr off data) := by
  obtain rfl | rfl | rfl | rfl | rfl | rfl | rfl | rfl | h := register_or_unmapped h4
  · exact ⟨rfl, rfl⟩
  · exact ⟨rfl, rfl⟩
  · exact ⟨rfl, rfl⟩
  · exact ⟨rfl, rfl⟩
  · exact encode_decodeCmd c data
  · exact ⟨rfl, rfl⟩
  · exact ⟨rfl, congrArg (fun v => Fetch.bus (.wr 0x18 v)) (pixWord_lanes data)⟩
  · exact ⟨rfl, rfl⟩
  · rw [decodeWrite_unmapped h]
    exact ⟨unmappedOk_iff.mpr ⟨h4, h, hl⟩, rfl⟩

/-- The encoder writes back the register that the decoder read from a read. -/
theorem encode_decodeRead :
    (decodeRead off).wellFormed c = true ∧ encode c (decodeRead off) = .bus (.rd off) := by
  obtain rfl | rfl | rfl | rfl | rfl | rfl | rfl | rfl | h := register_or_unmapped h4
  on_goal 9 =>
    rw [decodeRead_unmapped h]
    exact ⟨unmappedOk_iff.mpr ⟨h4, h, hl⟩, rfl⟩
  all_goals exact ⟨rfl, rfl⟩

end Accepted

theorem encode_of_decode_bus {c : Config} {a : BusAccess} {i : Instr} (h : decode c (.bus a) = .ok i) :
    i.wellFormed c = true ∧ encode c i = .bus (if a.dir = .read then { a with data := 0 } else a) := by
  obtain ⟨dir, size, off, data⟩ := a
  obtain ⟨rfl, h4, hl, rfl⟩ := decode_bus_ok h
  cases dir with
  | write => exact encode_decodeWrite h4 hl data
  | read => exact encode_decodeRead h4 hl

theorem encode_of_decode_phase (c : Config) {code : BitVec 4} {pixel : Word} {i : Instr}
    (h : decode c (.phase code pixel) = .ok i) :
    i.wellFormed c = true ∧ encode c i = .phase code (if code = 2 then pixel else 0) := by
  rw [decode] at h
  unfold decodePhase at h
  split at h <;> cases h
  case h_1 => exact ⟨rfl, congrArg (Fetch.phase 2) (pixWord_lanes pixel)⟩
  all_goals exact ⟨rfl, rfl⟩

/-! Frames (30_encoding.md R100 to R108). -/

theorem asMargin_eq_some_iff {c : Config} {bytes : List Byte} {i : Instr} :
    asMargin c bytes = some i ↔
      ∃ offset, marginOk offset = true ∧ i = .frameMargin offset ∧ bytes = marginFrame c offset.toNat := by
  unfold asMargin
  dsimp only
  constructor
  · intro h
    split_ifs at h with hm
    cases h
    exact ⟨_, hm.2, rfl, hm.1⟩
  · rintro ⟨offset, hok, rfl, rfl⟩
    have hread : ofLe16 ((marginFrame c offset.toNat).getD 2 0) ((marginFrame c offset.toNat).getD 3 0) = offset :=
      ofLe16_of_bytes offset _ 2 (by simp [marginFrame, le16]) (by simp [marginFrame, le16])
    rw [hread, if_pos ⟨rfl, hok⟩]

theorem asStore_eq_some_iff {c : Config} {bytes : List Byte} {i : Instr} :
    asStore c bytes = some i ↔
      ∃ canvasW k payload, storeOk c canvasW k payload = true ∧ i = .frameStore canvasW k payload ∧
        bytes = storeFrame c canvasW.toNat k.toNat payload := by
  unfold asStore
  dsimp only
  constructor
  · intro h
    split_ifs at h with hm
    cases h
    exact ⟨_, _, _, hm.2, rfl, hm.1⟩
  · rintro ⟨canvasW, k, payload, hok, rfl, rfl⟩
    set f := storeFrame c canvasW.toNat k.toNat payload with hf
    have hwidth : ofLe16 (f.getD 13 0) (f.getD 14 0) = canvasW :=
      ofLe16_of_bytes canvasW f 13 (by simp [hf, storeFrame, Machine.storeHeader_eq])
        (by simp [hf, storeFrame, Machine.storeHeader_eq])
    have hheight : ofLe16 (f.getD 15 0) (f.getD 16 0) = k :=
      ofLe16_of_bytes k f 15 (by simp [hf, storeFrame, Machine.storeHeader_eq])
        (by simp [hf, storeFrame, Machine.storeHeader_eq])
    have hpayload : f.drop 17 = payload := storeFrame_drop_header payload
    rw [hwidth, hheight, hpayload, if_pos ⟨hf, hok⟩]

theorem marginFrame_ne_cutFrame {c : Config} (h : c.FramesDiffer) (v : Nat) : marginFrame c v ≠ cutFrame c := by
  intro e
  apply h
  calc c.marginPrefix.toList = (marginFrame c v).take 2 := by simp [marginFrame]
    _ = c.cutBytes.toList.take 2 := by rw [e, cutFrame]

theorem decodeFrame_cut (c : Config) : decodeFrame c (cutFrame c) = .ok .frameCut := by
  rw [decodeFrame, if_neg (ne_of_apply_ne List.length (by simp)), if_pos rfl]

theorem decodeFrame_flush (c : Config) : decodeFrame c (flushFrame c) = .ok .frameFlush := by
  rw [decodeFrame, if_neg (ne_of_apply_ne List.length (by simp)), if_neg (ne_of_apply_ne List.length (by simp)),
    if_pos rfl]

theorem decodeFrame_margin {c : Config} (hc : c.FramesDiffer) {offset : BitVec 16} (h : marginOk offset = true) :
    decodeFrame c (marginFrame c offset.toNat) = .ok (.frameMargin offset) := by
  rw [decodeFrame, if_neg (ne_of_apply_ne List.length (by simp)), if_neg (marginFrame_ne_cutFrame hc _),
    if_neg (ne_of_apply_ne List.length (by simp)), asMargin_eq_some_iff.mpr ⟨offset, h, rfl, rfl⟩]

/-- A STORE frame is longer than any other (30_encoding.md R100). -/
theorem storeFrame_ne_of_short (c : Config) (cw k : Nat) (payload : List Byte) {f : List Byte} (h : f.length < 17) :
    storeFrame c cw k payload ≠ f :=
  ne_of_apply_ne List.length (by rw [storeFrame_length]; omega)

theorem asMargin_storeFrame (c : Config) (cw k : Nat) (payload : List Byte) :
    asMargin c (storeFrame c cw k payload) = none := by
  refine Option.eq_none_iff_forall_ne_some.mpr fun i hi => ?_
  obtain ⟨offset, -, -, e⟩ := asMargin_eq_some_iff.mp hi
  exact storeFrame_ne_of_short _ _ _ _ (by simp) e

theorem decodeFrame_store {c : Config} {canvasW k : BitVec 16} {payload : List Byte}
    (h : storeOk c canvasW k payload = true) :
    decodeFrame c (storeFrame c canvasW.toNat k.toNat payload) = .ok (.frameStore canvasW k payload) := by
  rw [decodeFrame, if_neg (storeFrame_ne_of_short _ _ _ _ (by simp)),
    if_neg (storeFrame_ne_of_short _ _ _ _ (by simp)), if_neg (storeFrame_ne_of_short _ _ _ _ (by simp)),
    asMargin_storeFrame, asStore_eq_some_iff.mpr ⟨canvasW, k, payload, h, rfl, rfl⟩]

theorem encode_of_decode_frame {c : Config} {bytes : List Byte} {i : Instr}
    (h : decode c (.frame bytes) = .ok i) : i.wellFormed c = true ∧ encode c i = .frame bytes := by
  rw [decode, decodeFrame] at h
  split_ifs at h with hinit hcut hflush
  · cases h; exact ⟨rfl, by rw [hinit, encode]⟩
  · cases h; exact ⟨rfl, by rw [hcut, encode]⟩
  · cases h; exact ⟨rfl, by rw [hflush, encode]⟩
  · split at h
    · next hm =>
      cases h
      obtain ⟨offset, hok, rfl, rfl⟩ := asMargin_eq_some_iff.mp hm
      exact ⟨hok, rfl⟩
    · split at h
      · next hs =>
        cases h
        obtain ⟨canvasW, k, payload, hok, rfl, rfl⟩ := asStore_eq_some_iff.mp hs
        exact ⟨hok, rfl⟩
      · cases h

end Sys2Proof

/-! PROOFS. The bits of a CMD word that select nothing (30_encoding.md R95). -/

namespace Sys2Proof.Machine

open Sys2Proof.Claims

/-- A gated write is recorded only while BUSY, when it is held. -/
theorem gated_congr {i j : Instr} {run : State → Result} {s : State} (h : s.busy = false) :
    gated i run s = gated j run s := by
  simp [gated, h]

/-- Outside BUSY a command runs the same whatever its ignored bits are (30_encoding.md R95). -/
theorem exec_commands_ignored (x y : BitVec 28) {s : State} (h : s.busy = false) :
    List.Forall₂ (fun i j => exec i s = exec j s) (commands x) (commands y) := by
  unfold commands reservedCommands
  refine .cons (gated_congr (run := fun s => .next s) h) ?_
  refine .cons (gated_congr (run := fun s => .next (startJob s)) h) ?_
  refine .cons (gated_congr (run := fun s => .next (admitImage s)) h) ?_
  refine .cons (gated_congr (run := fun s => .next (endJob s)) h) ?_
  iterate 11 refine .cons (gated_congr (run := fun s => .next (raiseErr .commandError s)) h) ?_
  exact .cons rfl .nil

end Sys2Proof.Machine

/-! PROOFS. The host's turn, the engine's, and where each frame begins (40_host_commands.md R130, R143;
46_frame_encoder.md R251 to R262). -/

namespace Sys2Proof.Machine

open Sys2Proof.Claims

theorem runFetched_ok {f : Fetch} {s : State} {i : Instr} (h : decode s.conf f = .ok i) :
    runFetched f s = exec i s := by
  rw [runFetched, h]

/-- With no turn decided, only the host moves while the engine is not busy. -/
theorem step_access_noTurn {s : State} {a : BusAccess} {rest : List BusAccess} (hheld : s.held = none)
    (hhost : s.host = a :: rest) (ht : s.turns = []) (hb : s.busy = false) :
    step s = runFetched (.bus a) { s with host := rest } := by
  rw [step, chooseMove_idle ht hb, hostMove_access hheld hhost]
  rfl

/-- On its turn, or alone, the busy engine runs its phase's operation. -/
theorem step_engine {s u : State}
    (h : (∃ ts, s.turns = .engine :: ts ∧ u = { s with turns := ts }) ∨ (EngineAlone s ∧ u = s))
    (hb : s.busy = true) : step s = exec (phaseOp s.phase) u := by
  have run : ∀ v : State, makeMove (.operate s.phase.code) v = exec (phaseOp s.phase) v := fun v => by
    rw [makeMove, runFetched, decode_phaseOp _ _ hb]
  obtain ⟨ts, ht, rfl⟩ | ⟨⟨ht, hhost, hheld⟩, rfl⟩ := h
  · rw [step, chooseMove_engine ht hb, run]
  · have noMove : hostMove u = none := by simp [hostMove, hheld, hhost]
    rw [step, chooseMove_engine_alone ht hb noMove, run]

theorem begins_before {s : State} {kind : FrameKind} (h : s.pos = .before kind) : Begins .emit s kind s :=
  .inr (.inr (.inl ⟨rfl, h, rfl⟩))

/-- Where a frame begins, its bytes are offered. -/
theorem exec_begins_next {op : Instr} {s u : State} {kind : FrameKind} (h : Begins op s kind u)
    (hfits : kind = .store → (u.row0.toNat + u.k.toNat) * u.stride.toNat ≤ u.conf.canvasCap) :
    exec op s = .next (sendBytes kind (frameBytes kind u) u) := by
  rw [(exec_begins h).1, beginFrame_next hfits]

/-- The rows of an image are in the canvas buffer (20_memory.md R80). -/
theorem State.Admitted.rows_fit {s : State} (h : s.Admitted) (hrows : s.row0.toNat + s.k.toNat ≤ s.imgH.toNat) :
    (s.row0.toNat + s.k.toNat) * s.stride.toNat ≤ s.conf.canvasCap :=
  calc (s.row0.toNat + s.k.toNat) * s.stride.toNat
      ≤ s.imgH.toNat * s.stride.toNat := Nat.mul_le_mul_right _ hrows
    _ = s.stride.toNat * s.imgH.toNat := Nat.mul_comm ..
    _ ≤ s.conf.canvasCap := h.fits_canvas

/-- The STORE frame of the latched geometry is the frame of its two header fields and its payload. -/
theorem frameBytes_store {s : State} (h : s.Admitted) :
    frameBytes .store s = storeFrame s.conf s.canvasW.toNat s.k.toNat (chunkPayload s) := by
  rw [frameBytes, storeFrame, h.stride_eq]

end Sys2Proof.Machine

/-! PROOFS. With a sink that accepts, whole frames and whole images are sent, a byte a step (20_memory.md R75, R76;
46_frame_encoder.md R251 to R262). -/

namespace Sys2Proof.Machine

open Sys2Proof.Claims

theorem run_succ {M : Host.Core} {s u : M.State} (h : M.step s = .next u) (n : Nat) : M.run (n + 1) s = M.run n u := by
  rw [Host.Core.run, h]

/-- A run of `m + n` steps goes on where the first `m` end. -/
theorem run_add {M : Host.Core} {m : Nat} {s u : M.State} (h : M.run m s = .next u) (n : Nat) :
    M.run (m + n) s = M.run n u := by
  induction m generalizing s with
  | zero =>
    cases h
    rw [Nat.zero_add]
  | succ m ih =>
    rw [Host.Core.run] at h
    rw [Nat.add_right_comm]
    split at h
    · next v hstep =>
      rw [run_succ hstep]
      exact ih h
    · cases h
    · cases h

/-- `s` but for the sink's answers and the stream. -/
def State.facing (s : State) (answers : List SinkAnswer) (out : List Byte) : State :=
  { s with sink := answers, out := out }

/-- With a sink that accepts, `s` sends exactly `bytes`, one a step, and becomes `t`, whatever is in the stream
before and whatever the sink answers after. -/
def Delivers (s : State) (bytes : List Byte) (t : State) : Prop :=
  ∀ answers out, core.run bytes.length (s.facing (List.replicate bytes.length .accept ++ answers) out) =
    .next (t.facing answers (out ++ bytes))

theorem Delivers.refl (s : State) : Delivers s [] s := fun answers out => by
  rw [List.append_nil]
  rfl

theorem Delivers.append {s u t : State} {bytes bytes' : List Byte} (h : Delivers s bytes u)
    (h' : Delivers u bytes' t) : Delivers s (bytes ++ bytes') t := fun answers out => by
  rw [List.length_append, List.replicate_add, List.append_assoc, run_add (h _ out), h', List.append_assoc]

theorem Delivers.run {s t : State} {bytes : List Byte} {answers : List SinkAnswer} (h : Delivers s bytes t)
    (hsink : s.sink = List.replicate bytes.length .accept ++ answers) :
    core.run bytes.length s = .next (t.facing answers (s.out ++ bytes)) := by
  rw [← h answers s.out, ← hsink]
  rfl

theorem Delivers.cons {s u t : State} {b : Byte} {bytes : List Byte}
    (h : ∀ answers out, step (s.facing (.accept :: answers) out) = .next (u.facing answers (out ++ [b])))
    (h' : Delivers u bytes t) : Delivers s (b :: bytes) t := fun answers out => by
  rw [List.length_cons, List.replicate_succ, List.cons_append]
  refine (run_succ (M := core) (h _ out) _).trans ?_
  rw [h', List.append_assoc]
  rfl

/-- The start of the chunk after the one in progress (46_frame_encoder.md R259). -/
def nextChunk (s : State) : State := chunkStart { s with row0 := s.row0 + s.k.setWidth 16 }

/-- FLUSH at the image's last row ends the image (46_frame_encoder.md R260). -/
theorem frameDone_flush_last {s : State} (h : s.row0 + s.k.setWidth 16 = s.imgH) :
    frameDone .flush s = { s with row0 := s.imgH, phase := .ready, pos := .start } := by
  rw [frameDone, h, if_pos rfl]

/-- FLUSH above it starts the next chunk (46_frame_encoder.md R259). -/
theorem frameDone_flush_next {s : State} (h : s.row0 + s.k.setWidth 16 ≠ s.imgH) :
    frameDone .flush s = nextChunk s := by
  rw [frameDone, if_neg h, nextChunk]

/-- What ends a frame looks neither at the sink and the stream nor at the place inside the frame. -/
theorem frameDone_facing (kind : FrameKind) (s : State) (answers : List SinkAnswer) (out : List Byte) :
    frameDone kind (s.facing answers out) = (frameDone kind s).facing answers out := by
  cases kind
  case flush =>
    by_cases h : s.row0 + s.k.setWidth 16 = s.imgH
    · rw [frameDone_flush_last h, frameDone_flush_last (s := s.facing answers out) h]
      rfl
    · rw [frameDone_flush_next h, frameDone_flush_next (s := s.facing answers out) h]
      rfl
  all_goals rfl

theorem frameDone_pos (kind : FrameKind) (s : State) (pos : EncPos) :
    frameDone kind { s with pos := pos } = frameDone kind s := by cases kind <;> rfl

/-- A step that offers the last byte of a frame. -/
theorem sendBytes_last (kind : FrameKind) (b : Byte) (s : State) (answers : List SinkAnswer) (out : List Byte) :
    sendBytes kind [b] (s.facing (.accept :: answers) out) = (frameDone kind s).facing answers (out ++ [b]) := by
  rw [← frameDone_facing]
  rfl

theorem sendBytes_inner (kind : FrameKind) (b : Byte) {rest : List Byte} (hrest : rest ≠ []) (s : State)
    (answers : List SinkAnswer) (out : List Byte) :
    sendBytes kind (b :: rest) (s.facing (.accept :: answers) out) =
      State.facing { s with pos := .inside kind rest } answers (out ++ [b]) :=
  (sendBytes_offer kind b hrest).1 rfl

/-- The engine alone, in a phase that sends frames (46_frame_encoder.md R251, R254, R262). -/
def State.SendsAlone (s : State) : Prop :=
  EngineAlone s ∧ (s.phase = .init ∨ s.phase = .emit ∨ s.phase = .cut)

theorem State.SendsAlone.step {s : State} (h : s.SendsAlone) : step s = exec (phaseOp s.phase) s := by
  obtain ⟨alone, hp⟩ := h
  refine step_engine (.inr ⟨alone, rfl⟩) ?_
  rw [State.busy]
  obtain hp | hp | hp := hp <;> rw [hp] <;> rfl

theorem State.SendsAlone.step_inside {s : State} {kind : FrameKind} {bytes : List Byte} (h : s.SendsAlone)
    (hpos : s.pos = .inside kind bytes) : Machine.step s = .next (sendBytes kind bytes s) := by
  rw [h.step]
  refine exec_inside ?_ hpos
  obtain ⟨-, hp | hp | hp⟩ := h <;> rw [hp] <;> decide

/-- The bytes left of a frame are sent, and its end takes place. -/
theorem Delivers.inside {s : State} {kind : FrameKind} {b : Byte} {rest : List Byte} (hs : s.SendsAlone)
    (hpos : s.pos = .inside kind (b :: rest)) : Delivers s (b :: rest) (frameDone kind s) := by
  induction rest generalizing s b with
  | nil =>
    refine .cons (u := frameDone kind s) (fun answers out => ?_) (.refl _)
    rw [State.SendsAlone.step_inside (s := s.facing _ out) hs hpos, sendBytes_last]
  | cons c rest ih =>
    refine .cons (u := { s with pos := .inside kind (c :: rest) }) (fun answers out => ?_) ?_
    · rw [State.SendsAlone.step_inside (s := s.facing _ out) hs hpos, sendBytes_inner kind b (by simp)]
    · rw [← frameDone_pos kind s (.inside kind (c :: rest))]
      exact ih (s := { s with pos := .inside kind (c :: rest) }) hs rfl

theorem begins_facing {op : Instr} {s u : State} {kind : FrameKind} (h : Begins op s kind u)
    (answers : List SinkAnswer) (out : List Byte) : Begins op (s.facing answers out) kind (u.facing answers out) := by
  obtain ⟨hop, hpos, hkind, rfl⟩ | ⟨hop, hpos, hkind, rfl⟩ | ⟨hop, hpos, rfl⟩ | ⟨hop, hpos, hkind, rfl⟩ := h
  · exact .inl ⟨hop, hpos, hkind, rfl⟩
  · exact .inr (.inl ⟨hop, hpos, hkind, rfl⟩)
  · exact .inr (.inr (.inl ⟨hop, hpos, rfl⟩))
  · exact .inr (.inr (.inr ⟨hop, hpos, hkind, rfl⟩))

/-- Where a frame begins, the encoder's place is all that may change. -/
theorem begins_eq {op : Instr} {s u : State} {kind : FrameKind} (h : Begins op s kind u) :
    u = { s with row0 := u.row0, k := u.k, pos := u.pos } := by
  obtain ⟨-, -, -, rfl⟩ | ⟨-, -, -, rfl⟩ | ⟨-, -, rfl⟩ | ⟨-, -, -, rfl⟩ := h <;> rfl

theorem frameBytes_facing (kind : FrameKind) (s : State) (answers : List SinkAnswer) (out : List Byte) :
    frameBytes kind (s.facing answers out) = frameBytes kind s := by cases kind <;> rfl

/-- From where a frame begins, the whole frame is sent, and its end takes place. -/
theorem Delivers.frame {s u : State} {kind : FrameKind} (hs : s.SendsAlone) (h : Begins (phaseOp s.phase) s kind u)
    (hfits : kind = .store → (u.row0.toNat + u.k.toNat) * u.stride.toNat ≤ u.conf.canvasCap) :
    Delivers s (frameBytes kind u) (frameDone kind u) := by
  obtain ⟨b, rest, hrest, hbytes⟩ := frameBytes_cons kind u
  obtain ⟨c, rest, rfl⟩ := List.exists_cons_of_ne_nil hrest
  rw [hbytes]
  refine .cons (u := { u with pos := .inside kind (c :: rest) }) (fun answers out => ?_) ?_
  · have run := exec_begins_next (begins_facing h (.accept :: answers) out) hfits
    rw [frameBytes_facing, hbytes, sendBytes_inner kind b hrest] at run
    exact (State.SendsAlone.step (s := s.facing _ out) hs).trans run
  · rw [← frameDone_pos kind u (.inside kind (c :: rest))]
    have hu : u.SendsAlone := by rw [begins_eq h]; exact hs
    exact .inside (s := { u with pos := .inside kind (c :: rest) }) hu rfl

/-! A job's brackets (46_frame_encoder.md R251, R262). -/

theorem delivers_initFrame {s : State} (alone : EngineAlone s) (hp : s.phase = .init) (hpos : s.pos = .start) :
    Delivers s (initFrame s.conf) { s with jobActive := true, phase := .ready, pos := .start } :=
  .frame (kind := .init) (u := s) ⟨alone, .inl hp⟩ (.inl ⟨congrArg phaseOp hp, hpos, rfl, rfl⟩) nofun

theorem delivers_cutFrame {s : State} (alone : EngineAlone s) (hp : s.phase = .cut) (hpos : s.pos = .start) :
    Delivers s (cutFrame s.conf) { s with jobActive := false, phase := .idle, pos := .start } :=
  .frame (kind := .cut) (u := s) ⟨alone, .inr (.inr hp)⟩ (.inr (.inl ⟨congrArg phaseOp hp, hpos, rfl, rfl⟩)) nofun

/-! The chunks of an image (30_encoding.md R107; 46_frame_encoder.md R252 to R260). -/

/-- The bytes of chunk `j` of the image in the engine. -/
def chunkBytes (s : State) (j : Nat) : List Byte :=
  chunkStream s.conf s.offset.toNat s.canvasW.toNat s.stride.toNat s.canvas (j * s.conf.gs8lMaxY)
    (min s.conf.gs8lMaxY (s.imgH.toNat - j * s.conf.gs8lMaxY))

/-- From `s`, the frame `kind` of a chunk of an admitted image begins, and is sent from `u`. -/
structure InChunk (s : State) (kind : FrameKind) (u : State) : Prop where
  alone : EngineAlone s
  phase : s.phase = .emit
  begins : Begins .emit s kind u
  admitted : u.Admitted
  rows : u.ChunkOk

theorem InChunk.delivers {s u : State} {kind : FrameKind} (h : InChunk s kind u) :
    Delivers s (frameBytes kind u) (frameDone kind u) :=
  .frame ⟨h.alone, .inr (.inl h.phase)⟩ (by rw [h.phase]; exact h.begins) fun _ => h.rows.payload_fits h.admitted

/-- The next frame of the same chunk. -/
theorem InChunk.before {s u : State} {kind : FrameKind} (h : InChunk s kind u) (next : FrameKind) :
    InChunk { u with pos := .before next } next { u with pos := .before next } where
  alone := by rw [begins_eq h.begins]; exact h.alone
  phase := by rw [begins_eq h.begins]; exact h.phase
  begins := begins_before rfl
  admitted := { h.admitted with }
  rows := h.rows

theorem InChunk.delivers_store {s u : State} (h : InChunk s .store u) :
    Delivers s (frameBytes .store u ++ flushFrame u.conf) (frameDone .flush u) := by
  rw [← frameDone_pos .flush u (.before .flush)]
  exact h.delivers.append (h.before .flush).delivers

theorem InChunk.delivers_chunk {s u : State} (h : InChunk s (firstFrame u) u) {j : Nat}
    (hj : u.row0.toNat = j * u.conf.gs8lMaxY) : Delivers s (chunkBytes u j) (frameDone .flush u) := by
  have hbytes : chunkBytes u j =
      (if u.offset ≠ 0 then marginFrame u.conf u.offset.toNat else []) ++
        (frameBytes .store u ++ flushFrame u.conf) := by
    have hk : u.k.toNat = min u.conf.gs8lMaxY (u.imgH.toNat - j * u.conf.gs8lMaxY) := hj ▸ h.rows.2
    have hoffset : u.offset.toNat ≠ 0 ↔ u.offset ≠ 0 := by simp [← BitVec.toNat_inj]
    simp only [chunkBytes, chunkStream, frameBytes, chunkPayload, hoffset, hj, ← hk, List.append_assoc]
  rw [hbytes]
  unfold firstFrame at h
  split_ifs at h ⊢ with hoffset
  · rw [← frameDone_pos .flush u (.before .store)]
    exact h.delivers.append (h.before .store).delivers_store
  · exact h.delivers_store

/-- Chunk `j` begins above the image's end exactly if the image has that many chunks. -/
theorem lt_chunkCount_iff {g h j : Nat} (hg : 0 < g) : j < chunkCount g h ↔ j * g < h := by
  rw [chunkCount, ← Nat.succ_le_iff, Nat.le_div_iff_mul_le hg, Nat.succ_mul]
  omega

/-- The start of an image's first chunk (46_frame_encoder.md R253, R254). -/
def firstChunk (s : State) : State := chunkStart { s with row0 := 0 }

/-- At the start of EMIT, the first chunk of the admitted image begins. -/
theorem inChunk_first {s : State} (hc : s.conf.Wf) (admitted : s.Admitted) (alone : EngineAlone s)
    (hp : s.phase = .emit) (hpos : s.pos = .start) : InChunk s (firstFrame (firstChunk s)) (firstChunk s) := by
  obtain ⟨rows, -⟩ := encoderOk_chunkStart (s := { s with row0 := 0 }) hc hp admitted.height_pos
  exact ⟨alone, hp, .inr (.inr (.inr ⟨rfl, hpos, firstFrame_eq s, rfl⟩)), { admitted with }, rows⟩

section Chunks

variable {s u : State} {j : Nat} (hc : u.conf.Wf) (h : InChunk s (firstFrame u) u)
  (hj : u.row0.toNat = j * u.conf.gs8lMaxY)

include h hj

/-- A chunk ends where the next one begins, or with the image. -/
theorem InChunk.row_end :
    (u.row0 + u.k.setWidth 16).toNat = min ((j + 1) * u.conf.gs8lMaxY) u.imgH.toNat := by
  obtain ⟨hrow, hk⟩ := h.rows
  rw [chunkHeight] at hk
  have himgH := u.imgH.isLt
  rw [BitVec.toNat_add, BitVec.toNat_setWidth, Nat.succ_mul]
  omega

include hc

/-- The last chunk's FLUSH ends the image (46_frame_encoder.md R260). -/
theorem InChunk.flush_last (hlast : chunkCount u.conf.gs8lMaxY u.imgH.toNat = j + 1) :
    frameDone .flush u = { u with row0 := u.imgH, phase := .ready, pos := .start } := by
  have hle : u.imgH.toNat ≤ (j + 1) * u.conf.gs8lMaxY := by
    rw [← Nat.not_lt, ← lt_chunkCount_iff hc.gs8l_pos, hlast]
    exact Nat.lt_irrefl _
  refine frameDone_flush_last (BitVec.eq_of_toNat_eq ?_)
  rw [h.row_end hj, Nat.min_eq_right hle]

/-- Any other chunk's FLUSH starts the next chunk (46_frame_encoder.md R259). -/
theorem InChunk.flush_next (hnext : j + 1 < chunkCount u.conf.gs8lMaxY u.imgH.toNat) :
    frameDone .flush u = nextChunk u ∧ InChunk (nextChunk u) (firstFrame (nextChunk u)) (nextChunk u) ∧
      (nextChunk u).row0.toNat = (j + 1) * u.conf.gs8lMaxY := by
  rw [lt_chunkCount_iff hc.gs8l_pos] at hnext
  have hrow := h.row_end hj
  rw [Nat.min_eq_left hnext.le] at hrow
  have hlt : (u.row0 + u.k.setWidth 16).toNat < u.imgH.toNat := hrow ▸ hnext
  have alone : EngineAlone u := by rw [begins_eq h.begins]; exact h.alone
  have phase : u.phase = .emit := by rw [begins_eq h.begins]; exact h.phase
  obtain ⟨rows, -⟩ := encoderOk_chunkStart (s := { u with row0 := u.row0 + u.k.setWidth 16 }) hc phase hlt
  exact ⟨frameDone_flush_next fun e => hlt.ne (congrArg _ e),
    ⟨alone, phase, begins_before rfl, { h.admitted with }, rows⟩, hrow⟩

/-- From chunk `j` on, the rest of the image is sent. -/
theorem InChunk.delivers_rest {d : Nat} (hd : chunkCount u.conf.gs8lMaxY u.imgH.toNat = j + d + 1) :
    ∃ k, Delivers s ((List.range' j (d + 1)).flatMap (chunkBytes u))
      { u with row0 := u.imgH, k := k, phase := .ready, pos := .start } := by
  have chunk := h.delivers_chunk hj
  induction d generalizing s u j with
  | zero =>
    rw [h.flush_last hc hj hd] at chunk
    exact ⟨u.k, by simpa using chunk⟩
  | succ d ih =>
    obtain ⟨hdone, hin, hrow⟩ := h.flush_next hc hj (by omega)
    rw [hdone] at chunk
    obtain ⟨k, rest⟩ := ih (u := nextChunk u) hc hin hrow (hd.trans (by omega)) (hin.delivers_chunk hrow)
    exact ⟨k, chunk.append rest⟩

end Chunks

end Sys2Proof.Machine

/-! The obligations of the family 30_encoding.md. -/

section EncodingObligations

open Sys2Proof Sys2Proof.Machine Sys2Proof.Claims Sys2Proof.Laws.EncodesLegally

/-- Settles O1: each register's offset, each command's code and each phase's code is its own, and frames of one
length, MARGIN and CUT, differ in their first bytes. -/
theorem decodeEncodeRoundTrip : Obligations.DecodeEncodeRoundTrip := by
  intro c i hc hdiffer hwf
  cases i
  case wrUnmapped off data =>
    obtain ⟨h4, hlow, hl⟩ := unmappedOk_iff.mp hwf
    rw [encode, BusAccess.wr, decode_bus h4 hl]
    exact congrArg Except.ok (decodeWrite_unmapped hlow data)
  case rdUnmapped off =>
    obtain ⟨h4, hlow, hl⟩ := unmappedOk_iff.mp hwf
    rw [encode, BusAccess.rd, decode_bus h4 hl]
    exact congrArg Except.ok (decodeRead_unmapped hlow)
  case wrCtrl | wrThresh | wrWidth | wrHeight | wrStatus | wrEffThresh | rdCtrl | rdThresh | rdWidth | rdHeight
      | rdCmd | rdStatus | rdPixin | rdEffThresh =>
    exact decode_bus_low hc (by decide) (by decide)
  case nop | jobStart | image | jobEnd | softReset | reserved4 | reserved5 | reserved6 | reserved7 | reserved8
      | reserved9 | reservedA | reservedB | reservedC | reservedD | reservedE =>
    exact decode_command hc rfl
  case pix r g b a =>
    obtain ⟨hr, hg, hb, ha⟩ := pix_lanes r g b a
    rw [encode, BusAccess.wr, decode_bus_low hc (by decide) (by decide)]
    show Except.ok (Instr.pix (pixR _) (pixG _) (pixB _) (pixA _)) = _
    rw [hr, hg, hb, ha]
  case reduce r g b a =>
    obtain ⟨hr, hg, hb, ha⟩ := pix_lanes r g b a
    show Except.ok (Instr.reduce (pixR _) (pixG _) (pixB _) (pixA _)) = _
    rw [hr, hg, hb, ha]
  case cdf | remap | dither | binarize | pack | emit | initEmit | cutEmit => rfl
  case frameInit => exact if_pos rfl
  case frameMargin => exact decodeFrame_margin hdiffer hwf
  case frameStore => exact decodeFrame_store hwf
  case frameFlush => exact decodeFrame_flush c
  case frameCut => exact decodeFrame_cut c

/-- Settles O2: the decoder's cases, by the form of what is fetched. -/
theorem acceptedFetchReencodes : Obligations.AcceptedFetchReencodes := fun c =>
  ⟨fun _ _ => encode_of_decode_bus, fun _ _ _ => encode_of_decode_phase c, fun _ _ => encode_of_decode_frame⟩

/-- Settles O44: each bracket is one frame, of two and of four bytes. -/
theorem jobBracketsSent : Obligations.JobBracketsSent := by
  intro s answers alone hpos
  refine ⟨fun hp hsink => ?_, fun hp hsink => ?_⟩
  · have run := (delivers_initFrame alone hp hpos).run (answers := answers) (by rw [initFrame_length, hsink])
    rw [initFrame_length] at run
    rw [run, State.facing, initFrame, hpos]
  · have run := (delivers_cutFrame alone hp hpos).run (answers := answers) (by rw [cutFrame_length, hsink])
    rw [cutFrame_length] at run
    rw [run, State.facing, cutFrame, hpos]

/-- Settles O45: chunk after chunk, from the first one on. -/
theorem emitSendsWholeImage : Obligations.EmitSendsWholeImage := by
  intro s answers hc admitted alone hp hpos hsink
  have first := inChunk_first hc admitted alone hp hpos
  have hchunks : 0 < chunkCount s.conf.gs8lMaxY s.imgH.toNat := by
    rw [lt_chunkCount_iff hc.gs8l_pos, Nat.zero_mul]
    exact admitted.height_pos
  obtain ⟨d, hd⟩ := Nat.exists_eq_add_one.mpr hchunks
  obtain ⟨k, image⟩ := first.delivers_rest (u := firstChunk s) (j := 0) (d := d) hc (Nat.zero_mul _).symm
    (hd.trans (by omega))
  have hbytes : imageBytes s = (List.range' 0 (d + 1)).flatMap (chunkBytes (firstChunk s)) := by
    rw [imageBytes, imageStream, hd, List.range_eq_range']
    rfl
  rw [← hbytes] at image
  exact ⟨_, image.run hsink, by rw [hpos]; rfl⟩

/-- Settles O3: the list of commands is the decoder's table of codes. -/
theorem commandCodesSelect : Obligations.CommandCodesSelect := by
  intro c x code hc
  refine ⟨?_, fun y s hbusy i j hi hj => ?_⟩
  · rw [commands_getElem_code]
    exact congrArg Except.toOption (decode_cmdWrite hc x code)
  · obtain ⟨hi', rfl⟩ := List.getElem?_eq_some_iff.mp hi
    obtain ⟨hj', rfl⟩ := List.getElem?_eq_some_iff.mp hj
    exact (exec_commands_ignored x y hbusy).get hi' hj'

/-- Settles O4: the lanes are the word's digits, base 256. -/
theorem pixLanesDecode : Obligations.PixLanesDecode := by
  intro c v hc
  obtain ⟨hr, hg, hb, ha⟩ := pixLanes_eq_digits v
  rw [BusAccess.wr, decode_bus_low hc (by decide) (by decide), ← hr, ← hg, ← hb, ← ha]
  rfl

/-- Settles O5: each word, decoded. -/
theorem specWordsDecode : Obligations.SpecWordsDecode := by
  unfold Obligations.SpecWordsDecode
  decide

/-- Settles O7: the host's access is the step's move, and it decodes to `i`. -/
theorem stepRunsHostAccess : Obligations.StepRunsHostAccess := fun _ _ _ _ hheld hhost hdecode =>
  ⟨fun _ ht => (step_hostTurn_access hheld hhost ht).trans (runFetched_ok hdecode),
    fun ht hbusy => (step_access_noTurn hheld hhost ht hbusy).trans (runFetched_ok hdecode)⟩

/-- Settles O8: the code of a busy phase decodes to its operation. -/
theorem stepRunsEngineOperation : Obligations.StepRunsEngineOperation := by
  intro s u h
  have run : ∀ p : Phase, p.busy = true → s.phase = p → step s = exec (phaseOp p) u := fun p hb hp => by
    rw [step_engine h (by rw [State.busy, hp, hb]), hp]
  exact ⟨run .cdf rfl, run .remap rfl, run .dither rfl, run .binarize rfl, run .pack rfl, run .emit rfl,
    run .init rfl, run .cut rfl⟩

/-- Settles O41: the bytes that begin at each place are those of the frame's own operation. -/
theorem phasesBeginFrames : Obligations.PhasesBeginFrames := by
  refine ⟨fun s h => ⟨?_, ?_⟩, fun s h => ?_, fun s h => ?_, fun s h hs hrows => ?_, fun s h => ?_⟩
  · exact exec_begins_next (.inl ⟨rfl, h, rfl, rfl⟩) nofun
  · exact exec_begins_next (.inr (.inl ⟨rfl, h, rfl, rfl⟩)) nofun
  · have hoffset : (s.offset.setWidth 16).toNat = s.offset.toNat := BitVec.toNat_setWidth_of_le (by decide)
    rw [exec_begins_next (begins_before h) nofun, frameBytes, ← hoffset]
    rfl
  · exact exec_begins_next (begins_before h) nofun
  · have hwidth : (s.canvasW.setWidth 16).toNat = s.canvasW.toNat := BitVec.toNat_setWidth_of_le (by decide)
    have hheight : (s.k.setWidth 16).toNat = s.k.toNat := BitVec.toNat_setWidth_of_le (by decide)
    rw [exec_begins_next (begins_before h) fun _ => hs.rows_fit hrows, frameBytes_store hs, ← hwidth, ← hheight]
    rfl
  · obtain ⟨start, -⟩ := exec_begins (.inr (.inr (.inr ⟨rfl, h, rfl, rfl⟩)))
    exact start.trans (exec_begins (begins_before rfl)).1.symm

end EncodingObligations

/-! PROOFS. The STATUS word in numbers, the commands and the pixel outside BUSY (40_host_commands.md R133 to R140;
10_state.md R38, R39; 60_exceptions.md R291, R293, R298). -/

namespace Sys2Proof.Machine

open Sys2Proof.Claims

/-! STATUS. -/

theorem phaseCode_toNat (p : Phase) : p.code.toNat = phaseNumber p := by cases p <;> rfl

theorem phaseBusy_toNat (p : Phase) : p.busy.toNat = busyNumber p := by cases p <;> rfl

theorem errCode_toNat (k : ErrKind) : k.code.toNat = errNumber k := by cases k <;> rfl

/-- The fields of STATUS stand side by side: each counts its place's power of two (10_state.md R38). -/
theorem statusWord_toNat (s : State) :
    (statusWord s).toNat =
      phaseNumber s.phase + 2 ^ 4 * busyNumber s.phase + 2 ^ 5 * s.jobActive.toNat + 2 ^ 6 * s.err.toNat +
        2 ^ 8 * errNumber s.errcode := by
  rw [← phaseCode_toNat, ← phaseBusy_toNat, ← errCode_toNat, statusWord, State.busy]
  simp only [toNat_append_add, BitVec.toNat_ofBool, BitVec.toNat_ofNat]
  omega

/-! Commands. -/

theorem exec_nop (x : BitVec 28) (s : State) : exec (.nop x) s = gated (.nop x) (fun s => .next s) s := rfl

theorem exec_jobStart (x : BitVec 28) (s : State) :
    exec (.jobStart x) s = gated (.jobStart x) (fun s => .next (startJob s)) s := rfl

theorem exec_image (x : BitVec 28) (s : State) :
    exec (.image x) s = gated (.image x) (fun s => .next (admitImage s)) s := rfl

theorem exec_jobEnd (x : BitVec 28) (s : State) :
    exec (.jobEnd x) s = gated (.jobEnd x) (fun s => .next (endJob s)) s := rfl

theorem exec_reserved {x : BitVec 28} {i : Instr} (h : i ∈ reservedCommands x) (s : State) :
    exec i s = gated i (fun s => .next (raiseErr .commandError s)) s := by
  simp only [reservedCommands, List.mem_cons, List.not_mem_nil, or_false] at h
  obtain rfl | rfl | rfl | rfl | rfl | rfl | rfl | rfl | rfl | rfl | rfl := h <;> rfl

theorem startJob_outside {s : State} (h : s.phase ≠ .idle) : startJob s = raiseErr .commandError s := if_pos h

theorem admitImage_outside {s : State} (h : s.phase ≠ .ready) : admitImage s = raiseErr .commandError s := if_pos h

theorem endJob_outside {s : State} (h : s.phase ≠ .ready) : endJob s = raiseErr .commandError s := if_pos h

theorem endJob_cut {s : State} (hp : s.phase = .ready) (hcut : s.cfg.cut = true) :
    endJob s = { s with phase := .cut, pos := .start } := by
  simp [endJob, hp, hcut]

theorem endJob_noCut {s : State} (hp : s.phase = .ready) (hcut : s.cfg.cut = false) :
    endJob s = { s with jobActive := false, phase := .idle } := by
  simp [endJob, hp, hcut]

/-- A write that may run and then raises CommandError changes the error record only (60_exceptions.md R292). -/
theorem gated_commandError {i : Instr} {run : State → Result} {s : State} (hb : s.busy = false) (he : s.err = false)
    (hrun : run s = .next (raiseErr .commandError s)) : gated i run s = .next (halted .commandError s) := by
  rw [gated_run hb he, hrun, raiseErr_first he]

/-! The pixel. -/

theorem exec_reduce (r g b a : Byte) (s : State) : exec (.reduce r g b a) s = reduceStep r g b a s := rfl

theorem exec_pix (r g b a : Byte) (s : State) :
    exec (.pix r g b a) s =
      gated (.pix r g b a)
        (fun s => if s.phase ≠ .load then .next (raiseErr .commandError s) else reduceStep r g b a s) s := rfl

/-- In LOAD a pixel written is the pixel reduced (40_host_commands.md R140). -/
theorem exec_pix_load {s : State} (hp : s.phase = .load) (he : s.err = false) (r g b a : Byte) :
    exec (.pix r g b a) s = exec (.reduce r g b a) s := by
  have hbusy : s.busy = false := congrArg Phase.busy hp
  rw [exec_pix, gated_run hbusy he, if_neg (not_not.mpr hp), exec_reduce]

/-- With room in LF the reduced pixel is loaded (41_color_reducer.md R170, R171). -/
theorem exec_reduce_fits {s : State} (hli : s.li.toNat < s.conf.lfCap) (r g b a : Byte) :
    exec (.reduce r g b a) s = .next (pixelLoaded (reducePixel s.conf r g b a) s) :=
  if_neg (Nat.not_le.mpr hli)

end Sys2Proof.Machine

/-! The obligations of the family 40_host_commands.md. -/

section HostCommandObligations

open Sys2Proof Sys2Proof.Machine Sys2Proof.Claims

/-- Settles O23: in LOAD the pixel is reduced and loaded, and `li`, below N, counts up without wrapping. -/
theorem pixelReduced : Obligations.PixelReduced := by
  intro r g b a s hp he hn hcap
  have reduced := exec_reduce_fits hcap r g b a
  have hli : (s.li + 1).toNat = s.li.toNat + 1 := li_succ hn
  refine ⟨pixelLoaded (reducePixel s.conf r g b a) s, (exec_pix_load hp he r g b a).trans reduced, reduced, rfl,
    Buf.read_write_same .., fun _ hj => Buf.read_write_other _ hj _, Buf.read_write_same ..,
    fun _ hv => Buf.read_write_other _ hv _, hli, fun hmore => ?_, fun hlast => ?_⟩
  · have hne : s.li + 1 ≠ s.n := fun h => Nat.ne_of_lt hmore (congrArg BitVec.toNat h)
    exact (if_neg hne).trans hp
  · exact if_pos (BitVec.eq_of_toNat_eq hlast)

/-- Settles O13: each read returns its register and changes `rdata` only; STATUS is the sum of its fields. -/
theorem readsReturnRegisters : Obligations.ReadsReturnRegisters := by
  intro off s
  refine ⟨rfl, rfl, rfl, rfl, rfl, rfl, rfl, ?_, ?_⟩
  · rw [BitVec.ofNat_toNat]
    rfl
  · rw [← statusWord_toNat, BitVec.ofNat_toNat, BitVec.setWidth_eq]
    rfl

/-- Settles O14: the gate holds NOP while BUSY; let through or ignored, it leaves the state as it was. -/
theorem nopHasNoEffect : Obligations.NopHasNoEffect := by
  intro x s
  rw [exec_nop]
  refine ⟨fun hbusy => ?_, gated_busy⟩
  cases he : s.err
  · exact gated_run hbusy he
  · exact gated_err hbusy he

/-- Settles O16: every holdable write goes through the gate. -/
theorem commandsIgnoredWhileError : Obligations.CommandsIgnoredWhileError := by
  intro i s hi hbusy he
  obtain ⟨run, hrun⟩ := exec_gated hi
  rw [hrun, gated_err hbusy he]

/-- Settles O20: READY holds nothing, and the latched `cut` decides. -/
theorem jobEndEndsOrCuts : Obligations.JobEndEndsOrCuts := by
  intro x s hp he
  have hbusy : s.busy = false := congrArg Phase.busy hp
  rw [exec_jobEnd, gated_run hbusy he]
  exact ⟨fun hcut => by rw [endJob_cut hp hcut], fun hcut => by rw [endJob_noCut hp hcut]⟩

/-- Settles O22: each write is let through, and out of its phase it raises CommandError. -/
theorem commandErrorRaised : Obligations.CommandErrorRaised := by
  intro x r g b a s hbusy he
  refine ⟨fun hp => ?_, fun hp => ?_, fun hp => ?_, fun hp => ?_, fun i hi => ?_⟩
  · rw [exec_jobStart, gated_commandError hbusy he (by rw [startJob_outside hp])]
  · rw [exec_image, gated_commandError hbusy he (by rw [admitImage_outside hp])]
  · rw [exec_jobEnd, gated_commandError hbusy he (by rw [endJob_outside hp])]
  · rw [exec_pix, gated_commandError hbusy he (if_pos hp)]
  · rw [exec_reserved hi, gated_commandError hbusy he rfl]

end HostCommandObligations

/-! PROOFS. The ROM GAMMA, entry by entry (41_color_reducer.md R162, R163). -/

namespace Sys2Proof

/-- The ROM is rounded as R162 asks: `2.2 = 11 / 5`, so the bounds of the rounding are compared as fifth powers. -/
theorem gammaTable_rounded : ∀ i : Fin 256,
    (2 * (gammaTable[i.val]).toNat - 1) ^ 5 * 255 ^ 11 ≤ (2 * 255) ^ 5 * i.val ^ 11 ∧
      (2 * 255) ^ 5 * i.val ^ 11 < (2 * (gammaTable[i.val]).toNat + 1) ^ 5 * 255 ^ 11 := by
  decide +kernel

end Sys2Proof

/-! The obligations of the family 41_color_reducer.md. -/

section ColorReducerObligations

open Sys2Proof Sys2Proof.Machine

/-- Settles O24: `Comp` and the weighted mean `Luma` both fit in a byte, so narrowing drops nothing. -/
theorem compositeAndLumaExact : Obligations.CompositeAndLumaExact :=
  ⟨comp_toNat, luma_toNat⟩

/-- Settles O25: `gamma` reads the ROM at the channel's index, and each of its 256 entries is rounded. -/
theorem gammaIsItsFormula : Obligations.GammaIsItsFormula :=
  fun c => gammaTable_rounded c.toFin

end ColorReducerObligations

/-! PROOFS. The passes of the tone mapper (42_tone_mapper.md R181 to R186). -/

namespace Sys2Proof.Machine

/-! The prefix sums (42_tone_mapper.md R181). -/

theorem exec_cdf (s : State) :
    exec .cdf s = .next { s with hist := prefixSums s.hist, histMode := .cdf, phase := .remap } := rfl

theorem prefixSums_toNat (h : Buf 32) {v : Nat} (hv : v < 256) :
    ((prefixSums h).read v).toNat = ((List.range (v + 1)).map fun u => (h.read u).toNat).sum % 2 ^ 32 :=
  (prefix_steps h 255).1 v (Nat.le_of_lt_succ hv)

theorem prefixSums_read_past (h : Buf 32) {v : Nat} (hv : 256 ≤ v) : (prefixSums h).read v = h.read v :=
  (prefix_steps h 255).2 v hv

/-- Counts of single lightnesses add up to the counts up to a lightness; below `2 ^ 32` pixels no sum wraps. -/
theorem prefixSums_counts {h : Buf 32} {lf : Memory} {n : Nat} (hn : n < 2 ^ 32)
    (counts : ∀ v : Byte, (h.read v.toNat).toNat = (List.range n).countP fun i => lf.read i == v) (v : Byte) :
    ((prefixSums h).read v.toNat).toNat = (List.range n).countP fun i => (lf.read i).toNat ≤ v.toNat := by
  have count_at : ∀ u ∈ List.range (v.toNat + 1),
      (h.read u).toNat = (List.range n).countP fun i => (lf.read i).toNat = u := by
    intro u hu
    have hbyte : (BitVec.ofNat 8 u).toNat = u := by
      have hle := List.mem_range.mp hu
      exact Nat.mod_eq_of_lt (by omega)
    have hcount := counts (BitVec.ofNat 8 u)
    rw [hbyte] at hcount
    rw [hcount]
    refine List.countP_congr fun i _ => ?_
    rw [beq_iff_eq, decide_eq_true_iff, ← BitVec.toNat_inj, hbyte]
  have no_wrap : ((List.range n).countP fun i => (lf.read i).toNat ≤ v.toNat) < 2 ^ 32 :=
    Nat.lt_of_le_of_lt (List.countP_le_length.trans_eq List.length_range) hn
  rw [prefixSums_toNat h v.isLt, List.map_congr_left count_at, ← countP_le_eq_sum, Nat.mod_eq_of_lt no_wrap]

/-! Equalization (42_tone_mapper.md R183, R185, R186). -/

/-- The state REMAP leaves: the pixels and the threshold equalized through the same CDF. -/
def imageRemapped (s : State) : State :=
  { s with
    lf := s.lf.update s.n.toNat fun v => equalize (s.hist.read v.toNat) s.n.toNat
    effThr := equalize (s.hist.read s.cfg.thr.toNat) s.n.toNat
    phase := .dither }

theorem exec_remap_fits {s : State} (hpos : 0 < s.n.toNat) (hfits : s.n.toNat ≤ s.conf.lfCap) :
    exec .remap s = .next (imageRemapped s) :=
  (if_neg (Nat.ne_of_gt hpos)).trans (if_neg (Nat.not_lt.mpr hfits))

theorem exec_remap_next {s t : State} (h : exec .remap s = .next t) : t = imageRemapped s := by
  change execRemap s = _ at h
  unfold execRemap at h
  split_ifs at h
  cases h
  rfl

theorem imageRemapped_lf {s : State} {i : Nat} (hi : i < s.n.toNat) :
    (imageRemapped s).lf.read i = equalize (s.hist.read (s.lf.read i).toNat) s.n.toNat :=
  (Buf.read_update ..).trans (if_pos hi)

theorem imageRemapped_lf_past {s : State} {i : Nat} (hi : s.n.toNat ≤ i) :
    (imageRemapped s).lf.read i = s.lf.read i :=
  (Buf.read_update ..).trans (if_neg (Nat.not_lt.mpr hi))

theorem imageRemapped_effThr (s : State) :
    (imageRemapped s).effThr = equalize (s.hist.read s.cfg.thr.toNat) s.n.toNat := rfl

/-- Up to `n` pixels the equalized value does not narrow, so it rises with the count. -/
theorem equalize_mono {c d : BitVec 32} {n : Nat} (hcd : c.toNat ≤ d.toNat) (hd : d.toNat ≤ n) :
    (equalize c n).toNat ≤ (equalize d n).toNat := by
  rw [equalize_toNat c n (hcd.trans hd), equalize_toNat d n hd]
  exact Nat.div_le_div_right (Nat.mul_le_mul_left 255 hcd)

end Sys2Proof.Machine

/-! The obligations of the family 42_tone_mapper.md. -/

section ToneMapperObligations

open Sys2Proof Sys2Proof.Machine

/-- Settles O28: `N` has 26 bits, so the prefix sums of an image's counts do not wrap. -/
theorem cdfCumulates : Obligations.CdfCumulates := by
  intro s
  have hn : s.n.toNat < 2 ^ 32 := s.n.isLt.trans (by norm_num)
  refine ⟨_, exec_cdf s, ?_⟩
  dsimp only
  exact ⟨rfl, fun _ => prefixSums_toNat s.hist, fun _ => prefixSums_read_past s.hist, prefixSums_counts hn⟩

/-- Settles O29: a CDF bounded by `N` equalizes to a byte, so narrowing drops nothing. -/
theorem remapEqualizes : Obligations.RemapEqualizes := by
  intro s hpos hfits hbound
  refine ⟨imageRemapped s, exec_remap_fits hpos hfits, rfl, fun i hi => ?_, fun i => imageRemapped_lf_past, ?_⟩
  · rw [imageRemapped_lf hi, equalize_toNat _ _ (hbound _ (s.lf.read i).isLt)]
  · rw [imageRemapped_effThr, equalize_toNat _ _ (hbound _ s.cfg.thr.isLt)]

/-- Settles O30: pixels and threshold go through one monotone map, `255*cdf[v]/N`. -/
theorem remapKeepsOrder : Obligations.RemapKeepsOrder := by
  intro s t hrun hbound hrise i j hi hj
  have mono (u v : Byte) (huv : u.toNat ≤ v.toNat) :
      (equalize (s.hist.read u.toNat) s.n.toNat).toNat ≤ (equalize (s.hist.read v.toNat) s.n.toNat).toNat :=
    equalize_mono (hrise _ _ huv v.isLt) (hbound _ v.isLt)
  rw [exec_remap_next hrun, imageRemapped_lf hi, imageRemapped_lf hj, imageRemapped_effThr]
  exact ⟨mono _ _, fun h => mono _ _ (Nat.le_of_lt h), mono _ _⟩

end ToneMapperObligations

/-! PROOFS. The ditherer's pass, pixel by pixel (43_ditherer.md R201 to R206). -/

namespace Sys2Proof.Machine

/-- A pixel that has been compared is marked or unmarked (43_ditherer.md R206, 44_binarizer.md R221). -/
theorem binarizeByte_binary (thr v : Byte) : binarizeByte thr v = 0 ∨ binarizeByte thr v = 255 := by
  unfold binarizeByte
  split
  · exact .inl rfl
  · exact .inr rfl

/-! One pixel (43_ditherer.md R201 to R204). -/

/-- Any other cell than the pixel's own changes only where it is a forward neighbour. -/
theorem ditherPixel_read_ne {w h x y j : Nat} (thr : Byte) (m : Memory) (hj : j ≠ y * w + x) :
    (ditherPixel w h thr m (x, y)).read j =
      if ∃ d ∈ neighbourOffsets, neighbourIndex w h x y d = some j then
        addClamped (m.read j)
          (ditherError (m.read (y * w + x)) (binarizeByte thr (m.read (y * w + x))))
      else m.read j := by
  unfold ditherPixel
  rw [diffuse_foldl _ _ _ _ _ _ (by decide), Buf.read_write_other _ hj]

/-- A pixel's turn touches no cell past the image (43_ditherer.md R203). -/
theorem ditherPixel_read_past {w h x y j : Nat} (thr : Byte) (m : Memory) (hx : x < w) (hy : y < h)
    (hj : w * h ≤ j) : (ditherPixel w h thr m (x, y)).read j = m.read j := by
  have inside : y * w + x < w * h := index_lt hx hy
  rw [ditherPixel_read_ne thr m (Nat.ne_of_gt (Nat.lt_of_lt_of_le inside hj)), if_neg]
  rintro ⟨d, -, hd⟩
  obtain ⟨X, Y, hX, hY, -, -, rfl⟩ := neighbourIndex_eq_some.mp hd
  exact Nat.not_lt.mpr hj (index_lt hX hY)

/-! The pass (43_ditherer.md R201, R205). -/

/-- The buffer after the first `i` pixels of the scan order. -/
def ditherPrefix (w h : Nat) (thr : Byte) (m : Memory) (i : Nat) : Memory :=
  ((scanOrder w h).take i).foldl (ditherPixel w h thr) m

theorem scanOrder_getElem? {w h i : Nat} (hi : i < w * h) : (scanOrder w h)[i]? = some (i % w, i / w) := by
  simp [scanOrder_eq, hi]

theorem ditherPrefix_all (w h : Nat) (thr : Byte) (m : Memory) :
    ditherPrefix w h thr m (w * h) = ditherAll w h thr m := by
  have whole : (scanOrder w h).take (w * h) = scanOrder w h := List.take_of_length_le (by simp [scanOrder_eq])
  rw [ditherPrefix, whole, ditherAll]

theorem ditherPrefix_succ {w h i : Nat} (thr : Byte) (m : Memory) (hi : i < w * h) :
    ditherPrefix w h thr m (i + 1) = ditherPixel w h thr (ditherPrefix w h thr m i) (i % w, i / w) := by
  simp [ditherPrefix, List.take_add_one, scanOrder_getElem? hi]

/-- A pixel of the image lies in one of its columns and one of its rows. -/
theorem column_row_lt {w h i : Nat} (hi : i < w * h) : i % w < w ∧ i / w < h :=
  ⟨Nat.mod_lt _ (Nat.pos_of_mul_pos_right (Nat.zero_lt_of_lt hi)), Nat.div_lt_of_lt_mul hi⟩

/-- The turn of pixel `i` leaves the cells before `i`, and compares the one at `i`. -/
theorem ditherPrefix_succ_read_le {w h i j : Nat} (thr : Byte) (m : Memory) (hi : i < w * h) (hj : j ≤ i) :
    (ditherPrefix w h thr m (i + 1)).read j =
      if j = i then binarizeByte thr ((ditherPrefix w h thr m i).read j) else (ditherPrefix w h thr m i).read j := by
  have index : i / w * w + i % w = i := Nat.div_add_mod' i w
  rw [ditherPrefix_succ thr m hi, ditherPixel_read_le _ _ _ _ _ _ (column_row_lt hi).1 _ (index.symm ▸ hj), index]

/-- Once its turn is over, no later pixel's turn touches pixel `i` (43_ditherer.md R205). -/
theorem ditherPrefix_read_finished {w h i k : Nat} (thr : Byte) (m : Memory) (hik : i + 1 ≤ k) (hk : k ≤ w * h) :
    (ditherPrefix w h thr m k).read i = binarizeByte thr ((ditherPrefix w h thr m i).read i) := by
  induction k, hik using Nat.le_induction with
  | base => rw [ditherPrefix_succ_read_le thr m hk (Nat.le_refl i), if_pos rfl]
  | succ k hik ih =>
    rw [ditherPrefix_succ_read_le thr m hk (Nat.le_of_lt hik), if_neg (Nat.ne_of_lt hik), ih (Nat.le_of_lt hk)]

theorem ditherPrefix_read_past {w h j k : Nat} (thr : Byte) (m : Memory) (hk : k ≤ w * h) (hj : w * h ≤ j) :
    (ditherPrefix w h thr m k).read j = m.read j := by
  induction k with
  | zero => rfl
  | succ k ih =>
    obtain ⟨column, row⟩ := column_row_lt hk
    rw [ditherPrefix_succ thr m hk, ditherPixel_read_past thr _ column row hj, ih (Nat.le_of_lt hk)]

/-- What the whole pass leaves of a pixel: the comparison of the value the pixels before it left there. -/
theorem ditherAll_read {w h i : Nat} (thr : Byte) (m : Memory) (hi : i < w * h) :
    (ditherAll w h thr m).read i = binarizeByte thr ((ditherPrefix w h thr m i).read i) := by
  rw [← ditherPrefix_all]
  exact ditherPrefix_read_finished thr m hi (Nat.le_refl _)

theorem ditherAll_read_past {w h j : Nat} (thr : Byte) (m : Memory) (hj : w * h ≤ j) :
    (ditherAll w h thr m).read j = m.read j := by
  rw [← ditherPrefix_all]
  exact ditherPrefix_read_past thr m (Nat.le_refl _) hj

theorem ditherAll_binary {w h i : Nat} (thr : Byte) (m : Memory) (hi : i < w * h) :
    (ditherAll w h thr m).read i = 0 ∨ (ditherAll w h thr m).read i = 255 := by
  rw [ditherAll_read thr m hi]
  exact binarizeByte_binary ..

theorem exec_dither_fits {s : State} (hfits : s.imgW.toNat * s.imgH.toNat ≤ s.conf.lfCap) :
    exec .dither s =
      .next { s with lf := ditherAll s.imgW.toNat s.imgH.toNat s.effThr s.lf, phase := .pack } :=
  if_neg (Nat.not_lt.mpr hfits)

/-! The binary field (43_ditherer.md R206, 44_binarizer.md R221). -/

/-- DITHER and BINARIZE are the two ways into PACK, and neither PACK nor EMIT writes LF. -/
theorem Change.binaryField {s t : State} (hs : s.Inv) (hb : s.BinaryField) (h : Change s t) : t.BinaryField := by
  cases h with
  | stored | held | moved => exact hb
  | dithered phase =>
    intro _ i hi
    have admitted : s.Admitted := hs.admitted_at phase rfl
    exact ditherAll_binary _ _ (Nat.lt_of_lt_of_eq hi admitted.n_eq)
  | binarized =>
    intro _ i hi
    show (s.lf.update s.n.toNat _).read i = 0 ∨ (s.lf.update s.n.toNat _).read i = 255
    rw [Buf.read_update, if_pos hi]
    exact binarizeByte_binary ..
  | packed phase => exact fun _ => hb (.inl phase)
  | loaded v phase =>
    intro done
    obtain ⟨h, -⟩ | ⟨h, -⟩ | ⟨h, -⟩ := pixelLoaded_phase v phase <;> simp [h] at done
  | raised | refused | reset | started | admitted | cutting | ended | cumulated | remapped | initSent | imageSent
      | cutSent =>
    intro done
    simp [State.reset, imageAdmitted] at done

end Sys2Proof.Machine

/-! The obligations of the family 43_ditherer.md. -/

section DithererObligations

open Sys2Proof Sys2Proof.Machine

/-- Settles O51: each change that ends in PACK or EMIT leaves a compared field, or the field as it was. -/
theorem stepKeepsBinaryField : Obligations.StepKeepsBinaryField := by
  intro s t hs hb h
  obtain ⟨v, same, inv, change⟩ := step_change hs h
  have field : v.BinaryField := by rw [same.eq]; exact hb
  exact change.binaryField inv field

/-- Settles O31: the pixel's own cell, a forward neighbour, and every other cell. -/
theorem ditherPixelEffect : Obligations.DitherPixelEffect := by
  intro w h x y thr m hx hy
  refine ⟨fun X Y hX hY => ⟨?_, fun near => ?_, fun other far => ?_⟩,
    fun j => ditherPixel_read_past thr m hx hy⟩
  · rintro ⟨rfl, rfl⟩
    exact (ditherPixel_read_le w h thr m X Y hX _ (Nat.le_refl _)).trans (if_pos rfl)
  · have hne : Y * w + X ≠ y * w + x := fun e => by
      obtain ⟨rfl, rfl⟩ := index_inj hX hx e
      omega
    rw [ditherPixel_read_ne thr m hne, if_pos ((neighbour_iff w h x y X Y hX hY).mpr near), addClamped_toNat]
    rfl
  · rw [ditherPixel_read_ne thr m fun e => other (index_inj hX hx e),
      if_neg fun near => far ((neighbour_iff w h x y X Y hX hY).mp near)]

/-- Settles O32: by induction on the turns after pixel `i`'s own. -/
theorem ditherSequential : Obligations.DitherSequential :=
  fun _ _ thr m _ hi => ⟨scanOrder_getElem? hi, ditherAll_read thr m hi⟩

/-- Settles O33: with room in LF, DITHER is the whole pass. -/
theorem ditherRuns : Obligations.DitherRuns := fun s hfits =>
  ⟨_, exec_dither_fits hfits, rfl, rfl, fun _ => ditherAll_binary s.effThr s.lf,
    fun _ => ditherAll_read_past s.effThr s.lf⟩

end DithererObligations

/-! PROOFS. The binarizer's pass (44_binarizer.md R221). -/

namespace Sys2Proof.Machine

/-- What BINARIZE leaves when the image fits in LF (44_binarizer.md R221). -/
def imageBinarized (s : State) : State :=
  { s with effThr := s.cfg.thr, lf := s.lf.update s.n.toNat (binarizeByte s.cfg.thr), phase := .pack }

theorem exec_binarize_fits {s : State} (hfits : s.n.toNat ≤ s.conf.lfCap) :
    exec .binarize s = .next (imageBinarized s) :=
  if_neg (Nat.not_lt.mpr hfits)

theorem imageBinarized_lf {s : State} {i : Nat} (hi : i < s.n.toNat) :
    (imageBinarized s).lf.read i = binarizeByte s.cfg.thr (s.lf.read i) :=
  (Buf.read_update ..).trans (if_pos hi)

theorem imageBinarized_lf_past {s : State} {i : Nat} (hi : s.n.toNat ≤ i) :
    (imageBinarized s).lf.read i = s.lf.read i :=
  (Buf.read_update ..).trans (if_neg (Nat.not_lt.mpr hi))

end Sys2Proof.Machine

/-! The obligation of the family 44_binarizer.md. -/

section BinarizerObligations

open Sys2Proof Sys2Proof.Machine

/-- Settles O34: with room in LF, BINARIZE maps the comparison over the image's cells and no others. -/
theorem binarizeMarks : Obligations.BinarizeMarks := fun _ hfits =>
  ⟨_, exec_binarize_fits hfits, rfl, fun _ => imageBinarized_lf, fun _ => imageBinarized_lf_past⟩

end BinarizerObligations

/-! PROOFS. The bit packer: canvas width, offset, rotation, and where each pixel's dot lands (45_bit_packer.md R231 to
R238). -/

namespace Sys2Proof.Machine

/-! Geometry (45_bit_packer.md R231, R236, R237). -/

theorem canvasWidth_mod (w : Nat) : canvasWidth w % 8 = 0 := Nat.mul_mod_left ..

/-- Rounding up to whole bytes adds at most 7 columns. -/
theorem canvasWidth_bounds (w : Nat) : w ≤ canvasWidth w ∧ canvasWidth w ≤ w + 7 := by
  unfold canvasWidth
  omega

theorem offsetDots_left (rotate : Bool) (cw : Nat) : offsetDots .left rotate cw = 0 := rfl

theorem offsetDots_right (rotate : Bool) (cw : Nat) : offsetDots .right rotate cw = 512 - cw := rfl

theorem offsetDots_center (rotate : Bool) (cw : Nat) :
    offsetDots .center rotate cw = (512 - cw) / 2 - (512 - cw) / 2 % 8 := by
  show (512 - cw) / 2 / 8 * 8 = _
  omega

/-- Without an alignment, a rotated image goes to the right edge (45_bit_packer.md R236). -/
theorem offsetDots_unset (rotate : Bool) (cw : Nat) :
    offsetDots .unset rotate cw = if rotate then 512 - cw else 0 := by
  cases rotate <;> rfl

/-- The widest margin is the one left of a canvas of 8 dots. -/
theorem offsetDots_range (al : Align) (rotate : Bool) {cw : Nat} (hmod : cw % 8 = 0) (hmin : 8 ≤ cw) (hmax : cw ≤ 512) :
    offsetDots al rotate cw % 8 = 0 ∧ offsetDots al rotate cw ≤ 504 := by
  cases al
  case left => exact ⟨rfl, Nat.zero_le _⟩
  case right => rw [offsetDots_right]; omega
  case center => rw [offsetDots_center]; omega
  case unset => rw [offsetDots_unset]; split <;> omega

/-! Rotation (45_bit_packer.md R233). -/

theorem column_row_of_index {w x : Nat} (y : Nat) (hx : x < w) : (y * w + x) % w = x ∧ (y * w + x) / w = y := by
  obtain ⟨column, row⟩ := index_inj hx (Nat.mod_lt _ (Nat.zero_lt_of_lt hx)) (Nat.div_add_mod' (y * w + x) w).symm
  exact ⟨column.symm, row.symm⟩

@[simp] theorem packIndex_false (n i : Nat) : packIndex false n i = i := rfl

@[simp] theorem packIndex_true (n i : Nat) : packIndex true n i = n - 1 - i := rfl

theorem packIndex_lt {n i : Nat} (rotate : Bool) (hi : i < n) : packIndex rotate n i < n := by
  cases rotate
  case false => exact hi
  case true => rw [packIndex_true]; omega

/-- Reversing the pixel stream twice gives it back. -/
theorem packIndex_packIndex {n i : Nat} (rotate : Bool) (hi : i < n) :
    packIndex rotate n (packIndex rotate n i) = i := by
  cases rotate
  case false => rfl
  case true => rw [packIndex_true, packIndex_true]; omega

/-- Counted from the end, the last column and the last row come first. -/
theorem packIndex_rotated {w h x y : Nat} (hx : x < w) (hy : y < h) :
    packIndex true (w * h) (y * w + x) = (h - 1 - y) * w + (w - 1 - x) := by
  obtain ⟨a, rfl⟩ := Nat.exists_eq_add_of_lt hx
  obtain ⟨b, rfl⟩ := Nat.exists_eq_add_of_lt hy
  have rows : y + b + 1 - 1 - y = b := by omega
  have columns : x + a + 1 - 1 - x = a := by omega
  have size : (x + a + 1) * (y + b + 1) = y * (x + a + 1) + b * (x + a + 1) + (x + a + 1) := by ring
  rw [packIndex_true, rows, columns, size]
  omega

/-! The dots (45_bit_packer.md R232, R234, R235, R238). -/

/-- Two canvas columns share a bit of a byte only if they are one column of one row (45_bit_packer.md R234). -/
theorem dot_iff {st x y X Y : Nat} (hx : x < st * 8) (hX : X < st * 8) :
    y * st + x / 8 = canvasByte (st * 8) X Y ∧ 7 - x % 8 = 7 - X % 8 ↔ x = X ∧ y = Y := by
  rw [canvasByte_eq]
  constructor
  · rintro ⟨byte, bit⟩
    obtain ⟨column, row⟩ := index_inj (Nat.div_lt_of_lt_mul (Nat.mul_comm st 8 ▸ hx))
      (Nat.div_lt_of_lt_mul (Nat.mul_comm st 8 ▸ hX)) byte
    exact ⟨by omega, row⟩
  · rintro ⟨rfl, rfl⟩
    exact ⟨rfl, rfl⟩

/-- A dot of the image's rows is set exactly for the marked pixel that lands on it: PACK first clears these rows, and
every pixel has a dot of its own. -/
theorem packAll_dot {st w h x y : Nat} (rotate : Bool) (lf canvas : Memory) (hw : w ≤ st * 8) (hx : x < st * 8)
    (hy : y < h) :
    ((packAll rotate (w * h) w h (st * 8) st lf canvas).read (y * st + x / 8)).getLsbD (7 - x % 8) = true ↔
      x < w ∧ lf.read (packIndex rotate (w * h) (y * w + x)) = 0 := by
  have cleared : (canvas.zero (st * h)).read (y * st + x / 8) = 0 :=
    (Buf.read_zero ..).trans (if_pos (index_lt (Nat.div_lt_of_lt_mul (Nat.mul_comm st 8 ▸ hx)) hy))
  rw [packAll, pack_foldl _ _ _ _ _ _ _ _ _ (by omega), cleared]
  constructor
  · rintro (unset | ⟨i, hi, marked, dot⟩)
    · simp at unset
    · have hi : i < w * h := List.mem_range.mp hi
      obtain ⟨column, -⟩ := column_row_lt (packIndex_lt rotate hi)
      obtain ⟨rfl, rfl⟩ := (dot_iff hx (Nat.lt_of_lt_of_le column hw)).mp dot
      rw [Nat.div_add_mod', packIndex_packIndex rotate hi]
      exact ⟨column, marked⟩
  · rintro ⟨column, marked⟩
    have inside : y * w + x < w * h := index_lt column hy
    obtain ⟨hX, hY⟩ := column_row_of_index y column
    refine .inr ⟨_, List.mem_range.mpr (packIndex_lt rotate inside), marked, ?_⟩
    rw [packIndex_packIndex rotate inside, hX, hY]
    exact (dot_iff hx hx).mpr ⟨rfl, rfl⟩

/-- No pixel's dot lies past the image's rows. -/
theorem packAll_read_past {st w h j : Nat} (rotate : Bool) (lf canvas : Memory) (hw : w ≤ st * 8) (hj : st * h ≤ j) :
    (packAll rotate (w * h) w h (st * 8) st lf canvas).read j = canvas.read j := by
  refine BitVec.eq_of_getLsbD_eq fun B hB => Bool.eq_iff_iff.mpr ?_
  rw [packAll, pack_foldl _ _ _ _ _ _ _ _ _ hB, Buf.read_zero, if_neg (Nat.not_lt.mpr hj), or_iff_left]
  rintro ⟨i, hi, -, byte, -⟩
  obtain ⟨column, row⟩ := column_row_lt (packIndex_lt rotate (List.mem_range.mp hi))
  have byte_column : packIndex rotate (w * h) i % w / 8 < st := by omega
  rw [byte, canvasByte_eq] at hj
  exact Nat.not_lt.mpr hj (index_lt byte_column row)

/-- The state PACK leaves. -/
def imagePacked (s : State) : State :=
  { s with
    canvas := packAll s.cfg.rotate s.n.toNat s.imgW.toNat s.imgH.toNat s.canvasW.toNat s.stride.toNat s.lf s.canvas
    phase := .emit
    pos := .start }

theorem State.Admitted.exec_pack {s : State} (h : s.Admitted) : exec .pack s = .next (imagePacked s) := by
  change execPack s = _
  rw [execPack, if_neg (fun hw => Nat.ne_of_gt h.width_pos hw.2), if_neg (Nat.not_lt.mpr h.fits_lf),
    if_neg (by simp [h.packInRange])]
  rfl

theorem State.Admitted.imagePacked_canvas {s : State} (h : s.Admitted) :
    (imagePacked s).canvas = packAll s.cfg.rotate (s.imgW.toNat * s.imgH.toNat) s.imgW.toNat s.imgH.toNat
      (s.stride.toNat * 8) s.stride.toNat s.lf s.canvas := by
  rw [imagePacked, h.n_eq, h.canvasW_rows.1]

end Sys2Proof.Machine

/-! The obligations of the family 45_bit_packer.md. -/

section BitPackerObligations

open Sys2Proof Sys2Proof.Machine

/-- Settles O38: whole bytes that hold at least `w` columns and at most seven more. -/
theorem canvasWidthPads : Obligations.CanvasWidthPads := by
  intro w hmin hmax
  have hmod := canvasWidth_mod w
  obtain ⟨hle, hpad⟩ := canvasWidth_bounds w
  exact ⟨hmod, by omega, by omega, hle, by omega⟩

/-- Settles O37: one equation for each alignment, and their common range. -/
theorem offsetOfAlignment : Obligations.OffsetOfAlignment := fun rotate cw hmod hmin hmax =>
  ⟨offsetDots_left rotate cw, offsetDots_right rotate cw, offsetDots_center rotate cw, offsetDots_unset rotate cw,
    fun al => offsetDots_range al rotate hmod hmin hmax⟩

/-- Settles O36: the reversed index is that of the pixel `w-1-x` of the row `h-1-y`. -/
theorem rotationIsHalfTurn : Obligations.RotationIsHalfTurn := by
  intro w h x y hx hy
  rw [packIndex_rotated hx hy]
  exact ⟨packIndex_false .., column_row_of_index _ (by omega)⟩

/-- Settles O35: PACK passes its checks and packs the whole image. -/
theorem packPlacesEveryDot : Obligations.PackPlacesEveryDot := by
  intro s h
  obtain ⟨rows, width⟩ := h.canvasW_rows
  rw [rows] at width
  refine ⟨imagePacked s, h.exec_pack, rfl, fun x y hx hy => ?_, fun j hj => ?_⟩
  · rw [rows] at hx
    rw [h.imagePacked_canvas, packAll_dot _ _ _ width hx hy, h.n_eq]
    rfl
  · rw [h.imagePacked_canvas, packAll_read_past _ _ _ width hj]

end BitPackerObligations

/-! PROOFS. The frame encoder: what the last byte of a frame leads to, and how many bytes an image is
(46_frame_encoder.md R251 to R264). -/

namespace Sys2Proof.Machine

/-! The end of a frame (46_frame_encoder.md R251, R254, R259, R260, R262). -/

/-- The last byte of a frame joins the stream, and the frame's end takes place in the same step. -/
theorem exec_last {op : Instr} {s : State} {kind : FrameKind} {b : Byte} {answers : List SinkAnswer}
    (hop : op ∈ [Instr.initEmit, .emit, .cutEmit]) (hpos : s.pos = .inside kind [b])
    (hsink : s.sink = .accept :: answers) :
    exec op s = .next (frameDone kind (s.facing answers (s.out ++ [b]))) := by
  have hs : s = s.facing (.accept :: answers) s.out := by rw [← hsink]; rfl
  rw [exec_inside hop hpos, frameDone_facing, ← sendBytes_last, ← hs]

/-- Inside the image, `row0 + k` does not wrap (46_frame_encoder.md R259). -/
theorem chunkEnd_toNat {s : State} (h : s.row0.toNat + s.k.toNat ≤ s.imgH.toNat) :
    (s.row0 + s.k.setWidth 16).toNat = s.row0.toNat + s.k.toNat := by
  have himgH := s.imgH.isLt
  rw [BitVec.toNat_add, BitVec.toNat_setWidth]
  omega

/-- So the machine's test for the end of the image is exact (46_frame_encoder.md R260). -/
theorem chunkEnd_eq_imgH_iff {s : State} (h : s.row0.toNat + s.k.toNat ≤ s.imgH.toNat) :
    s.row0 + s.k.setWidth 16 = s.imgH ↔ s.row0.toNat + s.k.toNat = s.imgH.toNat := by
  rw [← BitVec.toNat_inj, chunkEnd_toNat h]

/-- The next chunk begins where this one ends, and takes what is left of the image up to a full chunk
(46_frame_encoder.md R253, R254, R259). -/
theorem nextChunk_place {s : State} (hc : s.conf.Wf) (h : s.row0.toNat + s.k.toNat ≤ s.imgH.toNat) :
    (nextChunk s).row0.toNat = s.row0.toNat + s.k.toNat ∧
    (nextChunk s).k.toNat = min s.conf.gs8lMaxY (s.imgH.toNat - (s.row0.toNat + s.k.toNat)) ∧
    (nextChunk s).pos = .before (if s.offset = 0 then .store else .margin) := by
  have hrow : (nextChunk s).row0.toNat = s.row0.toNat + s.k.toNat := chunkEnd_toNat h
  refine ⟨hrow, ?_, congrArg EncPos.before (firstFrame_eq s)⟩
  rw [← hrow]
  exact chunkHeight_narrow hc ..

/-! The byte count (46_frame_encoder.md R252, R264). -/

theorem chunkStream_length (c : Config) (offset cw stride : Nat) (canvas : Memory) (row k : Nat) :
    (chunkStream c offset cw stride canvas row k).length = (if offset ≠ 0 then 4 else 0) + 17 + 7 + k * stride := by
  simp only [chunkStream, List.length_append, apply_ite List.length, marginFrame_length, List.length_nil,
    storeHeader_length, Buf.slice_length, flushFrame_length]
  omega

/-- The first `n` chunks hold `n * g` rows, or the whole image. -/
theorem sum_chunk_rows (g h n : Nat) : ((List.range n).map fun j => min g (h - j * g)).sum = min (n * g) h := by
  induction n with
  | zero => simp
  | succ n ih =>
    rw [List.range_succ, List.map_append, List.sum_append, ih, Nat.succ_mul, List.map_singleton, List.sum_singleton]
    omega

/-- The chunks of an image hold all its rows. -/
theorem le_chunkCount_mul {g h : Nat} (hg : 0 < g) : h ≤ chunkCount g h * g :=
  Nat.not_lt.mp fun hlt => Nat.lt_irrefl _ ((lt_chunkCount_iff hg).mpr hlt)

end Sys2Proof.Machine

/-! The obligations of the family 46_frame_encoder.md. -/

section FrameEncoderObligations

open Sys2Proof Sys2Proof.Machine Sys2Proof.Claims

/-- Settles O40: each kind's `frameDone`; at the end of a FLUSH, `row0 + k` tells whether the image has ended. -/
theorem lastByteEndsFrame : Obligations.LastByteEndsFrame := by
  intro op s kind b answers hop hpos hsink hc u
  have run : exec op s = .next (frameDone kind u) := exec_last hop hpos hsink
  refine ⟨?init, ?margin, ?store, ?last, ?next, ?cut⟩
  case init | margin | store | cut => rintro rfl; exact run
  case last =>
    rintro rfl hend
    rw [run, frameDone_flush_last ((chunkEnd_eq_imgH_iff (s := u) hend.le).mpr hend)]
  case next =>
    rintro rfl hlt
    rw [run, frameDone_flush_next (mt (chunkEnd_eq_imgH_iff (s := u) hlt.le).mp hlt.ne)]
    exact ⟨nextChunk u, rfl, rfl, nextChunk_place (s := u) hc hlt.le⟩

/-- Settles O46: every chunk adds its frames' fixed bytes, and together the chunks hold each row once. -/
theorem imageByteCount : Obligations.ImageByteCount := by
  intro c offset cw stride h canvas hc
  simp only [imageStream, List.length_flatMap, chunkStream_length]
  rw [List.sum_map_add, List.map_const', List.sum_replicate, List.length_range, smul_eq_mul,
    List.sum_map_mul_right, sum_chunk_rows, Nat.min_eq_right (le_chunkCount_mul hc.gs8l_pos)]

end FrameEncoderObligations

/-! PROOFS. HALTED, and the checks of IMAGE in their order (60_exceptions.md R292, R293, R297, R302). -/

namespace Sys2Proof.Machine

open Sys2Proof.Claims

/-! An error stays. -/

/-- An error record is written once: raising an error in HALTED changes nothing (60_exceptions.md R292). -/
theorem raiseErr_halted {s : State} (k : ErrKind) (hp : s.phase = .halted) (he : s.err = true) :
    raiseErr k s = s := by
  rw [raiseErr, if_pos he, ← hp]

/-- The changes of HALTED; each of the others begins in another phase (60_exceptions.md R293, R302). -/
theorem Change.error_kept {s t : State} (hs : s.Inv) (he : s.err = true) (h : Change s t) :
    (t.phase = .halted ∧ statusWord t = statusWord s ∧ t.errcode = s.errcode ∧ t.out = s.out ∧
      t.effThr = s.effThr ∧ t.cfg = s.cfg) ∨
    ∃ u, t = resetEngine u := by
  have hp : s.phase = .halted := hs.halted_iff.mpr he
  cases h with
  | stored | held => exact .inl ⟨hp, rfl, rfl, rfl, rfl, rfl⟩
  | raised k =>
    rw [raiseErr_halted k hp he]
    exact .inl ⟨hp, rfl, rfl, rfl, rfl, rfl⟩
  | reset => exact .inr ⟨s, rfl⟩
  | refused _ _ _ _ _ _ _ phase | started phase | admitted phase | cutting phase | ended phase | loaded _ phase
      | cumulated phase | remapped phase | dithered phase | binarized phase | packed phase | initSent _ phase
      | imageSent _ _ phase | cutSent _ phase =>
    exact nomatch hp.symm.trans phase
  | moved _ _ _ _ phase => simp [hp] at phase

/-! The checks of IMAGE, first to fail first (60_exceptions.md R297). -/

/-- The size of the image as IMAGE latches it, before its checks (40_host_commands.md R136). -/
def sizeLatched (s : State) : State := { s with imgW := sizeField s.width, imgH := sizeField s.height }

/-- The buffers' sizes as IMAGE latches them, before it checks the capacities (40_host_commands.md R136). -/
def buffersLatched (s : State) : State :=
  { sizeLatched s with
    n := BitVec.ofNat 26 (regW s * regH s)
    canvasW := BitVec.ofNat 10 (canvasWidth (regW s))
    stride := BitVec.ofNat 7 (canvasWidth (regW s) / 8) }

theorem sizeField_eq_zero_iff (v : Word) : sizeField v = 0 ↔ v.toNat % 65536 = 0 := by
  rw [← sizeField_toNat, BitVec.toNat_eq]
  rfl

/-- In READY: each check with its error and with what is latched before it. -/
theorem admitImage_ready {s : State} (hp : s.phase = .ready) :
    admitImage s =
      if regW s = 0 ∨ regH s = 0 then raiseErr .commandError (sizeLatched s)
      else if 512 < regW s then raiseErr .imageTooWide (sizeLatched s)
      else if s.conf.lfCap < regW s * regH s ∨ s.conf.canvasCap < (regW s + 7) / 8 * regH s then
        raiseErr .allocationFailure (buffersLatched s)
      else imageAdmitted s := by
  have stride : canvasWidth (regW s) / 8 = (regW s + 7) / 8 := Nat.mul_div_cancel _ (by decide)
  have width : (sizeField s.width).toNat = regW s := sizeField_toNat s.width
  have height : (sizeField s.height).toNat = regH s := sizeField_toNat s.height
  unfold admitImage imageAdmitted buffersLatched sizeLatched printerMaxWidth
  simp only [sizeField_eq_zero_iff, width, height, stride]
  exact if_neg (not_not.mpr hp)

/-- Where no error is recorded, the one IMAGE raises is (60_exceptions.md R292). -/
theorem exec_image_raised {x : BitVec 28} {s u : State} {k : ErrKind} (hb : s.busy = false) (he : s.err = false)
    (h : admitImage s = raiseErr k u) (hu : u.err = false) : exec (.image x) s = .next (halted k u) := by
  rw [exec_image, gated_run hb he, h, raiseErr_first hu]

end Sys2Proof.Machine

/-! The obligations of the family 60_exceptions.md. -/

section ExceptionObligations

open Sys2Proof Sys2Proof.Machine Sys2Proof.Claims

/-- Settles O52: of all that a step can change, HALTED leaves only registers, a held write and a reset. -/
theorem errorIsSticky : Obligations.ErrorIsSticky := by
  intro s t hs he h
  obtain ⟨v, same, inv, change⟩ := step_change hs h
  have error : v.err = true := by rw [same.eq]; exact he
  have kept := change.error_kept inv error
  rw [same.symm.eq]
  exact kept

/-- Settles O19: the checks of IMAGE one after the other, each with what is latched before it. -/
theorem imageErrorPriority : Obligations.ImageErrorPriority := by
  intro x s hbusy he
  refine ⟨fun hp => exec_image_raised hbusy he (admitImage_outside hp) he, fun hp hfails => ?_⟩
  have checks := admitImage_ready hp
  split_ifs at checks with hzero hwide hroom
  · exact ⟨_, .commandError, exec_image_raised hbusy he checks he, rfl, fun _ => rfl, by omega, by omega⟩
  · exact ⟨_, .imageTooWide, exec_image_raised hbusy he checks he, rfl, by omega, fun _ _ _ => rfl, by omega⟩
  · exact ⟨_, .allocationFailure, exec_image_raised hbusy he checks he, rfl, by omega, by omega, fun _ _ _ => rfl⟩
  · omega

end ExceptionObligations
